-- ==== Sys2Proof/Word.lean ====
section
/-! DEFINITION. The word types of the machine: bytes, 64-bit words, 64-bit vector elements and vector
register contents (spec/00_scope.md R5, spec/10_state.md R10, R14, R17). -/

namespace Sys2Proof

/-- One byte of memory or of an instruction. -/
abbrev Byte := BitVec 8

/-- A 64-bit value: a general register, the program counter, an effective address (R17, R18, R32). -/
abbrev Word := BitVec 64

/-- One double-precision element: a 64-bit pattern that is never interpreted (R9, R84). -/
abbrev Elem := BitVec 64

/-- The contents of one vector register, LOW ELEMENT FIRST: element `j` is bits `[64*j+63 : 64*j]`
(R5, R10). Eight elements are the 512 bits of the widest register; a machine with a smaller `MAX_VL` holds
zeros in the elements it does not have. -/
abbrev Vec := Vector Elem 8

end Sys2Proof
end

