-- ==== Sys2Proof/Config.lean ====
section
/-! DEFINITION. What the launch fixes (spec/00_scope.md R4, spec/10_state.md R21, R24): the implementation
parameters as plain data, and the two values the spec leaves free as opaque constants. No step writes any of
it (spec/10_state.md R23). -/

namespace Sys2Proof

/-- A vector length, also the range of `MAX_VL` (R4, R60, D1). -/
inductive VecLen where
  | v128
  | v256
  | v512
  deriving DecidableEq, Repr, Inhabited

/-- The number of bits, `VL`. -/
def VecLen.bits : VecLen → Nat
  | .v128 => 128
  | .v256 => 256
  | .v512 => 512

/-- The number of 64-bit elements, `KL = VL/64` (R5). -/
def VecLen.elems : VecLen → Nat
  | .v128 => 2
  | .v256 => 4
  | .v512 => 8

/-- The number of bytes of a full-width memory operand (R31). -/
def VecLen.bytes : VecLen → Nat
  | .v128 => 16
  | .v256 => 32
  | .v512 => 64

@[simp] theorem VecLen.bits_v128 : VecLen.v128.bits = 128 := rfl
@[simp] theorem VecLen.bits_v256 : VecLen.v256.bits = 256 := rfl
@[simp] theorem VecLen.bits_v512 : VecLen.v512.bits = 512 := rfl
@[simp] theorem VecLen.elems_v128 : VecLen.v128.elems = 2 := rfl
@[simp] theorem VecLen.elems_v256 : VecLen.v256.elems = 4 := rfl
@[simp] theorem VecLen.elems_v512 : VecLen.v512.elems = 8 := rfl
@[simp] theorem VecLen.bytes_v128 : VecLen.v128.bytes = 16 := rfl
@[simp] theorem VecLen.bytes_v256 : VecLen.v256.bytes = 32 := rfl
@[simp] theorem VecLen.bytes_v512 : VecLen.v512.bytes = 64 := rfl

/-- The six segments (R55, R56). -/
inductive Segment where
  | es
  | cs
  | ss
  | ds
  | fs
  | gs
  deriving DecidableEq, Repr, Inhabited

namespace Config

/-- What the VEX.256 form does to the destination bits `[MAX_VL-1:256]` (R97, D11). -/
inductive Vex256Upper where
  | unmodified
  | zeroed
  deriving DecidableEq, Repr, Inhabited

/-- The value of `VEX256_UPPER` in `State.reset`: FREE. R97 leaves the parameter open and asks that a claim hold
for both values, so no value is picked (log 2). -/
opaque vex256Upper : Vex256Upper

/-- Which of two or more DIFFERENT segment overrides before one instruction counts: FREE. R56 admits any number
of override bytes in any order and states no choice (log 13). The number is taken modulo the number of
overrides, so the segment is always one of those named. -/
opaque segmentChoice : List Segment → Nat

/-- `LEGACY_ALIGN_FAULT`, fixed to true by the spec (R4, R34, D4). -/
def legacyAlignFault : Bool := true

/-- The byte that an address not listed in memory reads as: DESIGN CHOICE (log 7). -/
def unlistedByte : Byte := 0

/-- Why the platform answers a fault for an operand read (R127, R132). -/
inductive FaultCause where
  /-- Segment limit or non-canonical address: `SS(0)` through the SS segment, else `GP(0)`. -/
  | segment
  /-- Page not present or not readable: `PF(code)`, the code being the platform's. -/
  | page (code : Nat)
  /-- Alignment check: `AC(0)` (U12). -/
  | alignment
  deriving DecidableEq, Repr

/-- Which operand reads an entry of the `MemFault` table speaks of. -/
inductive FaultPlace where
  /-- Every read one of whose bytes `a` satisfies `lo ≤ a < hi` (a page, the outside of a limit). -/
  | touches (lo hi : Nat)
  /-- Exactly the read of `n` bytes at `ea`. -/
  | access (ea n : Nat)
  deriving DecidableEq, Repr

/-- One entry of the `MemFault` table: `seg = none` speaks of a read through any segment (log 3). -/
structure FaultEntry where
  place : FaultPlace
  seg : Option Segment
  cause : FaultCause
  deriving DecidableEq, Repr

/-- The segment bases the launch supplies; `none` is a base it does not supply (R39). -/
structure SegmentBases where
  es : Option Word
  cs : Option Word
  ss : Option Word
  ds : Option Word
  fs : Option Word
  gs : Option Word
  deriving DecidableEq, Repr

/-- The base of one segment. -/
def SegmentBases.of (b : SegmentBases) : Segment → Option Word
  | .es => b.es
  | .cs => b.cs
  | .ss => b.ss
  | .ds => b.ds
  | .fs => b.fs
  | .gs => b.gs

/-- The launch parameters (R4, R21, R24). A claim over every state is a claim over every value of each. -/
structure Launch where
  /-- `MAX_VL`, the width of a vector register (R4, R16, D1). -/
  maxVl : VecLen
  /-- `MODE64`: 64-bit mode, else 32-bit mode (R4, R65, D2). -/
  mode64 : Bool
  /-- `HAS_SSE2` (R66, R131). -/
  hasSse2 : Bool
  /-- `HAS_AVX` (R66, R131). -/
  hasAvx : Bool
  /-- `HAS_AVX512F` (R66, R131). -/
  hasAvx512f : Bool
  /-- `HAS_AVX512VL` (R66, R131). -/
  hasAvx512vl : Bool
  /-- `EN_SSE` (R21, R130). -/
  enSse : Bool
  /-- `EN_AVX` (R21, R130). -/
  enAvx : Bool
  /-- `EN_AVX512` (R21, R130). -/
  enAvx512 : Bool
  /-- `TS` (R21, R130). -/
  ts : Bool
  /-- `VEX256_UPPER` (R97, D11). -/
  vex256Upper : Vex256Upper
  /-- `MemFault(ea, n)` as a finite table; what no entry speaks of is "no fault" (R35, R132, D7; log 3). -/
  memFault : List FaultEntry
  /-- The segment bases (R32, R39). -/
  segBase : SegmentBases
  /-- Locations `lo ≤ a < hi` whose read has side effects (R37, R44, U16). -/
  sideEffects : List (Nat × Nat)
  /-- Debug, trace, performance-monitoring or power facilities enabled (R145, U22). -/
  facilities : Bool
  deriving DecidableEq, Repr

/-- The control registers, the extended control register and the CPUID words that the Boolean parameters
summarise (R21). They are no state of this machine (D15). -/
structure ControlWords where
  cr0 : Word
  cr4 : Word
  xcr0 : Word
  leaf1Ecx : BitVec 32
  leaf1Edx : BitVec 32
  leaf7Ebx : BitVec 32
  deriving DecidableEq, Repr

end Config
end Sys2Proof
end

