-- ==== Sys2Proof/Syntax.lean ====
section
/-! DEFINITION. The decoded instruction (spec/30_encoding.md R51, R72): one constructor per row of
spec/opcode_table.json. Register numbers are assembled (R59), fields the hardware ignores are dropped (R68). -/

namespace Sys2Proof

/-- A legacy prefix byte (R56, R64 step 1). -/
inductive Prefix where
  /-- 66H, the mandatory prefix of the legacy form. -/
  | opSize
  /-- 67H, the other address size. -/
  | addrSize
  /-- 2E, 36, 3E, 26, 64, 65: a segment override. -/
  | seg (s : Segment)
  /-- F0H; no admitted encoding has it (R67). -/
  | lock
  /-- F2H; no admitted encoding has it (R67). -/
  | repne
  /-- F3H; no admitted encoding has it (R67). -/
  | rep
  deriving DecidableEq, Repr

/-- The number of a vector register, 0 to 31 (R11, R59). -/
abbrev VReg := BitVec 5

/-- The number of a general register, 0 to 15 (R17). -/
abbrev GReg := BitVec 4

/-- The displacement of a memory operand that has a base register: `mod = 00, 01, 10` (R55). -/
inductive Disp where
  | none
  | disp8 (d : BitVec 8)
  | disp32 (d : BitVec 32)
  deriving DecidableEq, Repr

/-- The four shapes of a memory operand (R55). An `index` of `none` is the SIB index field 0100. -/
inductive MemOperand where
  /-- No SIB byte: `base + disp`. -/
  | base (r : GReg) (disp : Disp)
  /-- `mod = 00, rm = 101`: relative to the next instruction in 64-bit mode, absolute outside it. -/
  | disp32 (d : BitVec 32)
  /-- SIB byte: `base + index * 2^scale + disp`. -/
  | sib (scale : BitVec 2) (index : Option GReg) (r : GReg) (disp : Disp)
  /-- SIB byte with base field 101 and `mod = 00`: `index * 2^scale + disp32`, no base. -/
  | sibNoBase (scale : BitVec 2) (index : Option GReg) (d : BitVec 32)
  deriving DecidableEq, Repr

/-- The `ModRM:r/m` operand, SRC2: a vector register or a memory operand (R52, R54). -/
inductive Rm where
  | reg (r : VReg)
  | mem (m : MemOperand)
  deriving DecidableEq, Repr

/-- The nine rows of spec/opcode_table.json. `pfx`: the legacy prefix bytes in order; `d`: DEST; `s1`: SRC1;
`rm`: SRC2; `k`, `z`, `b`: writemask number (0 = none), zeroing, broadcast; `imm`: the immediate byte. -/
inductive Instr where
  /-- `66 0F C6 /r ib` without REX: SHUFPD xmm1, xmm2/m128, imm8 (R90). -/
  | shufpd (pfx : List Prefix) (d : VReg) (rm : Rm) (imm : Byte)
  /-- `66 REX 0F C6 /r ib`, 64-bit mode only (R90). -/
  | shufpdRex (pfx : List Prefix) (d : VReg) (rm : Rm) (imm : Byte)
  /-- `VEX.NDS.128.66.0F.WIG C6 /r ib`, two-byte prefix (R95). -/
  | vshufpdVex2L128 (pfx : List Prefix) (d s1 : VReg) (rm : Rm) (imm : Byte)
  /-- `VEX.NDS.128.66.0F.WIG C6 /r ib`, three-byte prefix (R95). -/
  | vshufpdVex3L128 (pfx : List Prefix) (d s1 : VReg) (rm : Rm) (imm : Byte)
  /-- `VEX.NDS.256.66.0F.WIG C6 /r ib`, two-byte prefix (R96). -/
  | vshufpdVex2L256 (pfx : List Prefix) (d s1 : VReg) (rm : Rm) (imm : Byte)
  /-- `VEX.NDS.256.66.0F.WIG C6 /r ib`, three-byte prefix (R96). -/
  | vshufpdVex3L256 (pfx : List Prefix) (d s1 : VReg) (rm : Rm) (imm : Byte)
  /-- `EVEX.NDS.128.66.0F.W1 C6 /r ib` (R110). -/
  | vshufpdEvex128 (pfx : List Prefix) (d : VReg) (k : BitVec 3) (z : Bool) (s1 : VReg) (rm : Rm) (b : Bool) (imm : Byte)
  /-- `EVEX.NDS.256.66.0F.W1 C6 /r ib` (R111). -/
  | vshufpdEvex256 (pfx : List Prefix) (d : VReg) (k : BitVec 3) (z : Bool) (s1 : VReg) (rm : Rm) (b : Bool) (imm : Byte)
  /-- `EVEX.NDS.512.66.0F.W1 C6 /r ib` (R112). -/
  | vshufpdEvex512 (pfx : List Prefix) (d : VReg) (k : BitVec 3) (z : Bool) (s1 : VReg) (rm : Rm) (b : Bool) (imm : Byte)
  deriving DecidableEq, Repr

end Sys2Proof
end

