-- ==== Sys2Proof/Decode.lean ====
section
/-! DEFINITION. Bytes to instruction and back (spec/30_encoding.md R50 to R68, R72): a decoder total on any
bytes that rejects by name, then the encoder, then the fields of the decoded record. -/

namespace Sys2Proof

/-- Why bytes are no admitted in-scope form. The spec REFUSES all of these (R64 step 5, R67, D17), so each is
safe: the model claims nothing where the processor raises invalid opcode or runs another instruction. -/
inductive DecodeRefusal where
  /-- Some other instruction (R64 step 5, R141). -/
  | notInScope
  /-- `0F C6` without a 66H prefix: SHUFPS (R56). -/
  | noOperandSizePrefix
  /-- A LOCK prefix (R67). -/
  | lockPrefix
  /-- F2H or F3H before `0F C6` (R67). -/
  | repeatPrefix
  /-- 66H, F2H, F3H or a REX byte before a VEX or EVEX prefix (R67). -/
  | prefixBeforeVex
  /-- A REX byte that a legacy prefix follows (R56, R64 step 2; log 19). -/
  | rexNotBeforeOpcode
  /-- `P0` bits 3:2 not 00 or `P1` bit 2 not 1 (R67). -/
  | evexReservedBits
  /-- EVEX.W = 0 (R67, U7). -/
  | evexW0
  /-- EVEX.L'L = 11 (R60, R67, U6). -/
  | evexLength11
  /-- EVEX.b = 1 with a register second source (R115, U4). -/
  | evexBroadcastRegister
  /-- EVEX.z = 1 with no writemask (R116, U5). -/
  | evexZeroingNoMask
  /-- A register number above 7 outside 64-bit mode (R59, U8). -/
  | registerAbove7
  /-- 16-bit addressing (R55, U9). -/
  | address16
  /-- More than 15 bytes (R63). -/
  | tooLong
  /-- The bytes end before the instruction does: from a fetch of 15 bytes, more than 15 bytes (R63). -/
  | outOfBytes
  deriving DecidableEq, Repr

/-! ### Bit fields of bytes -/

/-- The field `v[lo+n-1 : lo]` of a byte (R5). -/
def field (v : Byte) (lo n : Nat) : BitVec n := v.extractLsb' lo n

/-- Bit `i` of a byte (R5). -/
def bitOf (v : Byte) (i : Nat) : Bool := v.getLsbD i

/-- A general-register number from its extension bit and low three bits (R59). -/
def gregOf (e : Bool) (low : BitVec 3) : GReg := BitVec.ofBool e ++ low

/-- A vector-register number from bits 4, 3 and the low three bits (R59). -/
def vregOf (hi e : Bool) (low : BitVec 3) : VReg := BitVec.ofBool hi ++ BitVec.ofBool e ++ low

/-- A vector-register number from bit 4 and the four bits of `vvvv` (R59). -/
def vregOfVvvv (hi : Bool) (vvvv : BitVec 4) : VReg := BitVec.ofBool hi ++ vvvv

/-! ### The length (R63) -/

/-- Displacement bytes of an operand with a base register. -/
def Disp.len : Disp → Nat
  | .none => 0
  | .disp8 _ => 1
  | .disp32 _ => 4

/-- SIB and displacement bytes of the `r/m` operand. -/
def Rm.len : Rm → Nat
  | .reg _ => 0
  | .mem (.base _ disp) => disp.len
  | .mem (.disp32 _) => 4
  | .mem (.sib _ _ _ disp) => 1 + disp.len
  | .mem (.sibNoBase _ _ _) => 5

/-- Bytes between the legacy prefixes and the ModRM byte: REX, VEX or EVEX prefix and opcode. -/
def Instr.headLen : Instr → Nat
  | .shufpd _ _ _ _ => 2
  | .shufpdRex _ _ _ _ => 3
  | .vshufpdVex2L128 _ _ _ _ _ => 3
  | .vshufpdVex3L128 _ _ _ _ _ => 4
  | .vshufpdVex2L256 _ _ _ _ _ => 3
  | .vshufpdVex3L256 _ _ _ _ _ => 4
  | .vshufpdEvex128 _ _ _ _ _ _ _ _ => 5
  | .vshufpdEvex256 _ _ _ _ _ _ _ _ => 5
  | .vshufpdEvex512 _ _ _ _ _ _ _ _ => 5

/-! ### The fields of the decoded record (R72) -/

/-- The encoding family (R72). -/
inductive Family where
  | legacy
  | vex
  | evex
  deriving DecidableEq, Repr

/-- Field `family`. -/
def Instr.family : Instr → Family
  | .shufpd _ _ _ _ => .legacy
  | .shufpdRex _ _ _ _ => .legacy
  | .vshufpdVex2L128 _ _ _ _ _ => .vex
  | .vshufpdVex3L128 _ _ _ _ _ => .vex
  | .vshufpdVex2L256 _ _ _ _ _ => .vex
  | .vshufpdVex3L256 _ _ _ _ _ => .vex
  | .vshufpdEvex128 _ _ _ _ _ _ _ _ => .evex
  | .vshufpdEvex256 _ _ _ _ _ _ _ _ => .evex
  | .vshufpdEvex512 _ _ _ _ _ _ _ _ => .evex

/-- Field `VL` (R60). -/
def Instr.vl : Instr → VecLen
  | .shufpd _ _ _ _ => .v128
  | .shufpdRex _ _ _ _ => .v128
  | .vshufpdVex2L128 _ _ _ _ _ => .v128
  | .vshufpdVex3L128 _ _ _ _ _ => .v128
  | .vshufpdVex2L256 _ _ _ _ _ => .v256
  | .vshufpdVex3L256 _ _ _ _ _ => .v256
  | .vshufpdEvex128 _ _ _ _ _ _ _ _ => .v128
  | .vshufpdEvex256 _ _ _ _ _ _ _ _ => .v256
  | .vshufpdEvex512 _ _ _ _ _ _ _ _ => .v512

/-- The legacy prefix bytes. -/
def Instr.pfx : Instr → List Prefix
  | .shufpd p _ _ _ => p
  | .shufpdRex p _ _ _ => p
  | .vshufpdVex2L128 p _ _ _ _ => p
  | .vshufpdVex3L128 p _ _ _ _ => p
  | .vshufpdVex2L256 p _ _ _ _ => p
  | .vshufpdVex3L256 p _ _ _ _ => p
  | .vshufpdEvex128 p _ _ _ _ _ _ _ => p
  | .vshufpdEvex256 p _ _ _ _ _ _ _ => p
  | .vshufpdEvex512 p _ _ _ _ _ _ _ => p

/-- Field `d`: DEST, `ModRM:reg`. -/
def Instr.dest : Instr → VReg
  | .shufpd _ d _ _ => d
  | .shufpdRex _ d _ _ => d
  | .vshufpdVex2L128 _ d _ _ _ => d
  | .vshufpdVex3L128 _ d _ _ _ => d
  | .vshufpdVex2L256 _ d _ _ _ => d
  | .vshufpdVex3L256 _ d _ _ _ => d
  | .vshufpdEvex128 _ d _ _ _ _ _ _ => d
  | .vshufpdEvex256 _ d _ _ _ _ _ _ => d
  | .vshufpdEvex512 _ d _ _ _ _ _ _ => d

/-- Field `s1`: SRC1, which is DEST in the legacy form and `vvvv` otherwise. -/
def Instr.src1 : Instr → VReg
  | .shufpd _ d _ _ => d
  | .shufpdRex _ d _ _ => d
  | .vshufpdVex2L128 _ _ s1 _ _ => s1
  | .vshufpdVex3L128 _ _ s1 _ _ => s1
  | .vshufpdVex2L256 _ _ s1 _ _ => s1
  | .vshufpdVex3L256 _ _ s1 _ _ => s1
  | .vshufpdEvex128 _ _ _ _ s1 _ _ _ => s1
  | .vshufpdEvex256 _ _ _ _ s1 _ _ _ => s1
  | .vshufpdEvex512 _ _ _ _ s1 _ _ _ => s1

/-- Field `src2`: SRC2, `ModRM:r/m`. -/
def Instr.src2 : Instr → Rm
  | .shufpd _ _ rm _ => rm
  | .shufpdRex _ _ rm _ => rm
  | .vshufpdVex2L128 _ _ _ rm _ => rm
  | .vshufpdVex3L128 _ _ _ rm _ => rm
  | .vshufpdVex2L256 _ _ _ rm _ => rm
  | .vshufpdVex3L256 _ _ _ rm _ => rm
  | .vshufpdEvex128 _ _ _ _ _ rm _ _ => rm
  | .vshufpdEvex256 _ _ _ _ _ rm _ _ => rm
  | .vshufpdEvex512 _ _ _ _ _ rm _ _ => rm

/-- Field `imm8`. -/
def Instr.imm8 : Instr → Byte
  | .shufpd _ _ _ imm => imm
  | .shufpdRex _ _ _ imm => imm
  | .vshufpdVex2L128 _ _ _ _ imm => imm
  | .vshufpdVex3L128 _ _ _ _ imm => imm
  | .vshufpdVex2L256 _ _ _ _ imm => imm
  | .vshufpdVex3L256 _ _ _ _ imm => imm
  | .vshufpdEvex128 _ _ _ _ _ _ _ imm => imm
  | .vshufpdEvex256 _ _ _ _ _ _ _ imm => imm
  | .vshufpdEvex512 _ _ _ _ _ _ _ imm => imm

/-- Field `k`: the writemask number, 0 outside the EVEX family (R98). -/
def Instr.mask : Instr → BitVec 3
  | .vshufpdEvex128 _ _ k _ _ _ _ _ => k
  | .vshufpdEvex256 _ _ k _ _ _ _ _ => k
  | .vshufpdEvex512 _ _ k _ _ _ _ _ => k
  | .shufpd _ _ _ _ => 0
  | .shufpdRex _ _ _ _ => 0
  | .vshufpdVex2L128 _ _ _ _ _ => 0
  | .vshufpdVex3L128 _ _ _ _ _ => 0
  | .vshufpdVex2L256 _ _ _ _ _ => 0
  | .vshufpdVex3L256 _ _ _ _ _ => 0

/-- Field `z`: zeroing-masking, false outside the EVEX family (R98). -/
def Instr.zeroing : Instr → Bool
  | .vshufpdEvex128 _ _ _ z _ _ _ _ => z
  | .vshufpdEvex256 _ _ _ z _ _ _ _ => z
  | .vshufpdEvex512 _ _ _ z _ _ _ _ => z
  | .shufpd _ _ _ _ => false
  | .shufpdRex _ _ _ _ => false
  | .vshufpdVex2L128 _ _ _ _ _ => false
  | .vshufpdVex3L128 _ _ _ _ _ => false
  | .vshufpdVex2L256 _ _ _ _ _ => false
  | .vshufpdVex3L256 _ _ _ _ _ => false

/-- Field `b`: broadcast, false outside the EVEX family (R98). -/
def Instr.broadcast : Instr → Bool
  | .vshufpdEvex128 _ _ _ _ _ _ b _ => b
  | .vshufpdEvex256 _ _ _ _ _ _ b _ => b
  | .vshufpdEvex512 _ _ _ _ _ _ b _ => b
  | .shufpd _ _ _ _ => false
  | .shufpdRex _ _ _ _ => false
  | .vshufpdVex2L128 _ _ _ _ _ => false
  | .vshufpdVex3L128 _ _ _ _ _ => false
  | .vshufpdVex2L256 _ _ _ _ _ => false
  | .vshufpdVex3L256 _ _ _ _ _ => false

/-- Field `len`: the length in bytes (R63): legacy prefixes, head, ModRM, SIB and displacement, immediate. -/
def Instr.len (i : Instr) : Nat := i.pfx.length + i.headLen + 1 + i.src2.len + 1

/-! ### The decoder (R64) -/

/-- The legacy prefix a byte is, if it is one (R56, R64 step 1). -/
def prefixOf (b : Byte) : Option Prefix :=
  match b with
  | 0x66#8 => some .opSize
  | 0x67#8 => some .addrSize
  | 0x2E#8 => some (.seg .cs)
  | 0x36#8 => some (.seg .ss)
  | 0x3E#8 => some (.seg .ds)
  | 0x26#8 => some (.seg .es)
  | 0x64#8 => some (.seg .fs)
  | 0x65#8 => some (.seg .gs)
  | 0xF0#8 => some .lock
  | 0xF2#8 => some .repne
  | 0xF3#8 => some .rep
  | _ => none

/-- The leading legacy prefix bytes and what follows them (R64 step 1). -/
def takePrefixes : List Byte → List Prefix × List Byte
  | [] => ([], [])
  | b :: bs =>
    match prefixOf b with
    | some p => (p :: (takePrefixes bs).1, (takePrefixes bs).2)
    | none => ([], b :: bs)

/-- A four-byte displacement, little-endian (R33, R55). -/
def takeDisp32 : List Byte → Except DecodeRefusal (BitVec 32 × List Byte)
  | b0 :: b1 :: b2 :: b3 :: bs => .ok (b3 ++ b2 ++ b1 ++ b0, bs)
  | _ => .error .outOfBytes

/-- The displacement of an operand with a base register: by `mod` (R55). -/
def takeDisp (mod : BitVec 2) (bs : List Byte) : Except DecodeRefusal (Disp × List Byte) :=
  match mod with
  | 0#2 => .ok (.none, bs)
  | 1#2 =>
    match bs with
    | b :: bs => .ok (.disp8 b, bs)
    | [] => .error .outOfBytes
  | _ =>
    match takeDisp32 bs with
    | .ok (d, bs) => .ok (.disp32 d, bs)
    | .error e => .error e

/-- The index of a SIB byte: the field 0100 means none (R55). -/
def indexOf (x : Bool) (low : BitVec 3) : Option GReg :=
  if gregOf x low = 4#4 then none else some (gregOf x low)

/-- The SIB byte and the displacement after it (R55). -/
def takeSib (mod : BitVec 2) (x b : Bool) : List Byte → Except DecodeRefusal (MemOperand × List Byte)
  | [] => .error .outOfBytes
  | sib :: bs =>
    if mod = 0#2 ∧ field sib 0 3 = 5#3 then
      match takeDisp32 bs with
      | .ok (d, bs) => .ok (.sibNoBase (field sib 6 2) (indexOf x (field sib 3 3)) d, bs)
      | .error e => .error e
    else
      match takeDisp mod bs with
      | .ok (d, bs) => .ok (.sib (field sib 6 2) (indexOf x (field sib 3 3)) (gregOf b (field sib 0 3)) d, bs)
      | .error e => .error e

/-- The memory operand that `mod` and `rm` announce (R55). -/
def takeMem (mod : BitVec 2) (rm : BitVec 3) (x b : Bool) (bs : List Byte) :
    Except DecodeRefusal (MemOperand × List Byte) :=
  if rm = 4#3 then takeSib mod x b bs
  else if mod = 0#2 ∧ rm = 5#3 then
    match takeDisp32 bs with
    | .ok (d, bs) => .ok (.disp32 d, bs)
    | .error e => .error e
  else
    match takeDisp mod bs with
    | .ok (d, bs) => .ok (.base (gregOf b rm) d, bs)
    | .error e => .error e

/-- The `r/m` operand: a register when `mod = 11` (number `hi:B:rm`), else memory (R54, R55, R59). With a 67H
prefix outside 64-bit mode a memory operand would be addressed with 16 bits and is refused (R55; log 14). -/
def takeRm (mode64 addr67 hi x b : Bool) (mod : BitVec 2) (rm : BitVec 3) (bs : List Byte) :
    Except DecodeRefusal (Rm × List Byte) :=
  if mod = 3#2 then .ok (.reg (vregOf hi b rm), bs)
  else if !mode64 && addr67 then .error .address16
  else
    match takeMem mod rm x b bs with
    | .ok (m, bs) => .ok (.mem m, bs)
    | .error e => .error e

/-- ModRM byte, `r/m` operand and immediate byte: the `reg` field, SRC2 and `imm8` (R54, R61, R64 step 4). -/
def takeOperands (mode64 addr67 hi x b : Bool) :
    List Byte → Except DecodeRefusal ((BitVec 3 × Rm × Byte) × List Byte)
  | [] => .error .outOfBytes
  | modrm :: bs =>
    match takeRm mode64 addr67 hi x b (field modrm 6 2) (field modrm 0 3) bs with
    | .error e => .error e
    | .ok (_, []) => .error .outOfBytes
    | .ok (rm, imm :: bs) => .ok ((field modrm 3 3, rm, imm), bs)

/-- An instruction of more than 15 bytes is illegal (R63). -/
def admitLen (i : Instr) (rest : List Byte) : Except DecodeRefusal (Instr × List Byte) :=
  if i.len ≤ 15 then .ok (i, rest) else .error .tooLong

/-- What may stand before `0F C6`: 66H must, LOCK, F2H and F3H must not (R56, R67). -/
def legacyPrefixProblem (pfx : List Prefix) : Option DecodeRefusal :=
  if .lock ∈ pfx then some .lockPrefix
  else if .repne ∈ pfx ∨ .rep ∈ pfx then some .repeatPrefix
  else if .opSize ∈ pfx then none
  else some .noOperandSizePrefix

/-- What may stand before a VEX or EVEX prefix: 67H and segment overrides only (R57, R58, R67). -/
def vexPrefixProblem (pfx : List Prefix) : Option DecodeRefusal :=
  if .lock ∈ pfx then some .lockPrefix
  else if .opSize ∈ pfx ∨ .repne ∈ pfx ∨ .rep ∈ pfx then some .prefixBeforeVex
  else none

/-- Row 1 of the opcode table from the byte after `0F`, with the REX byte if there is one (R56). -/
def decodeLegacy (mode64 : Bool) (pfx : List Prefix) (rex : Option Byte) :
    List Byte → Except DecodeRefusal (Instr × List Byte)
  | [] => .error .outOfBytes
  | op :: bs =>
    if op ≠ 0xC6#8 then .error .notInScope
    else
      match legacyPrefixProblem pfx with
      | some e => .error e
      | none =>
        match rex with
        | none =>
          match takeOperands mode64 (pfx.contains .addrSize) false false false bs with
          | .error e => .error e
          | .ok ((reg, rm, imm), bs) => admitLen (.shufpd pfx (vregOf false false reg) rm imm) bs
        | some rex =>
          match takeOperands mode64 (pfx.contains .addrSize) false (bitOf rex 1) (bitOf rex 0) bs with
          | .error e => .error e
          | .ok ((reg, rm, imm), bs) => admitLen (.shufpdRex pfx (vregOf false (bitOf rex 2) reg) rm imm) bs

/-- Rows 2 and 3 after the byte C5H (R57). Outside 64-bit mode C5H is a VEX prefix only if the next byte's top
two bits are 11. -/
def decodeVex2 (mode64 : Bool) (pfx : List Prefix) : List Byte → Except DecodeRefusal (Instr × List Byte)
  | p :: op :: bs =>
    if (mode64 = false ∧ field p 6 2 ≠ 3#2) ∨ field p 0 2 ≠ 1#2 ∨ op ≠ 0xC6#8 then .error .notInScope
    else
      match vexPrefixProblem pfx with
      | some e => .error e
      | none =>
        match takeOperands mode64 (pfx.contains .addrSize) false false false bs with
        | .error e => .error e
        | .ok ((reg, rm, imm), bs) =>
          if bitOf p 2 then
            admitLen (.vshufpdVex2L256 pfx (vregOf false (!bitOf p 7) reg) (vregOfVvvv false (~~~ field p 3 4)) rm imm) bs
          else
            admitLen (.vshufpdVex2L128 pfx (vregOf false (!bitOf p 7) reg) (vregOfVvvv false (~~~ field p 3 4)) rm imm) bs
  | _ => .error .outOfBytes

/-- Rows 2 and 3 after the byte C4H (R57). `W` is not looked at (WIG). Outside 64-bit mode `B` is 0 whatever
the bit is (R55, R59; log 15) and a `vvvv` above 7 is refused (R59). -/
def decodeVex3 (mode64 : Bool) (pfx : List Prefix) : List Byte → Except DecodeRefusal (Instr × List Byte)
  | p1 :: p2 :: op :: bs =>
    if (mode64 = false ∧ field p1 6 2 ≠ 3#2) ∨ field p1 0 5 ≠ 1#5 ∨ field p2 0 2 ≠ 1#2 ∨ op ≠ 0xC6#8 then
      .error .notInScope
    else
      match vexPrefixProblem pfx with
      | some e => .error e
      | none =>
        if !mode64 && !bitOf p2 6 then .error .registerAbove7
        else
          match takeOperands mode64 (pfx.contains .addrSize) false (!bitOf p1 6) (mode64 && !bitOf p1 5) bs with
          | .error e => .error e
          | .ok ((reg, rm, imm), bs) =>
            if bitOf p2 2 then
              admitLen (.vshufpdVex3L256 pfx (vregOf false (!bitOf p1 7) reg) (vregOfVvvv false (~~~ field p2 3 4)) rm imm) bs
            else
              admitLen (.vshufpdVex3L128 pfx (vregOf false (!bitOf p1 7) reg) (vregOfVvvv false (~~~ field p2 3 4)) rm imm) bs
  | _ => .error .outOfBytes

/-- What is wrong with the EVEX payload bytes of a `VSHUFPD` (R58, R60, R67), and outside 64-bit mode with the
register numbers they give (R59): `R'`, `V'` and `vvvv[3]` must be 0 there. -/
def evexProblem (mode64 : Bool) (p0 p1 p2 : Byte) : Option DecodeRefusal :=
  if field p0 2 2 ≠ 0#2 ∨ bitOf p1 2 = false then some .evexReservedBits
  else if bitOf p1 7 = false then some .evexW0
  else if field p2 5 2 = 3#2 then some .evexLength11
  else if bitOf p2 7 = true ∧ field p2 0 3 = 0#3 then some .evexZeroingNoMask
  else if mode64 = false ∧ (bitOf p0 4 = false ∨ bitOf p1 6 = false ∨ bitOf p2 3 = false) then some .registerAbove7
  else none

/-- The EVEX form of the length field `L'L`; 11 has been refused before (R60). -/
def evexForm (ll : BitVec 2) (pfx : List Prefix) (d : VReg) (k : BitVec 3) (z : Bool) (s1 : VReg) (rm : Rm)
    (b : Bool) (imm : Byte) : Instr :=
  match ll with
  | 0#2 => .vshufpdEvex128 pfx d k z s1 rm b imm
  | 1#2 => .vshufpdEvex256 pfx d k z s1 rm b imm
  | _ => .vshufpdEvex512 pfx d k z s1 rm b imm

/-- Whether SRC2 is a register. -/
def Rm.isReg : Rm → Bool
  | .reg _ => true
  | .mem _ => false

/-- Rows 4 to 6 after the byte 62H (R58). -/
def decodeEvex (mode64 : Bool) (pfx : List Prefix) : List Byte → Except DecodeRefusal (Instr × List Byte)
  | p0 :: p1 :: p2 :: op :: bs =>
    if (mode64 = false ∧ field p0 6 2 ≠ 3#2) ∨ field p0 0 2 ≠ 1#2 ∨ field p1 0 2 ≠ 1#2 ∨ op ≠ 0xC6#8 then
      .error .notInScope
    else
      match vexPrefixProblem pfx with
      | some e => .error e
      | none =>
        match evexProblem mode64 p0 p1 p2 with
        | some e => .error e
        | none =>
          match takeOperands mode64 (pfx.contains .addrSize) (!bitOf p0 6) (!bitOf p0 6) (mode64 && !bitOf p0 5) bs with
          | .error e => .error e
          | .ok ((reg, rm, imm), bs) =>
            if bitOf p2 4 && rm.isReg then .error .evexBroadcastRegister
            else
              admitLen
                (evexForm (field p2 5 2) pfx (vregOf (!bitOf p0 4) (!bitOf p0 7) reg) (field p2 0 3) (bitOf p2 7)
                  (vregOfVvvv (!bitOf p2 3) (~~~ field p1 3 4)) rm (bitOf p2 4) imm) bs
  | _ => .error .outOfBytes

/-- After a REX byte (64-bit mode): only `0F` may follow (R56, R64 step 2, R67). -/
def decodeRex (pfx : List Prefix) (rex : Byte) : List Byte → Except DecodeRefusal (Instr × List Byte)
  | [] => .error .outOfBytes
  | b :: bs =>
    if b = 0x0F#8 then decodeLegacy true pfx (some rex) bs
    else if b = 0xC5#8 ∨ b = 0xC4#8 ∨ b = 0x62#8 then .error .prefixBeforeVex
    else if (prefixOf b).isSome then .error .rexNotBeforeOpcode
    else .error .notInScope

/-- R64: the first instruction of `bs` and the bytes after it, or why there is none. -/
def decode (mode64 : Bool) (bs : List Byte) : Except DecodeRefusal (Instr × List Byte) :=
  match takePrefixes bs with
  | (_, []) => .error .outOfBytes
  | (pfx, b :: bs) =>
    if b = 0x0F#8 then decodeLegacy mode64 pfx none bs
    else if b = 0xC5#8 then decodeVex2 mode64 pfx bs
    else if b = 0xC4#8 then decodeVex3 mode64 pfx bs
    else if b = 0x62#8 then decodeEvex mode64 pfx bs
    else if mode64 && field b 4 4 == 4#4 then decodeRex pfx b bs
    else .error .notInScope

/-- The 15 bytes of an opcode-table word: byte `i` is bits `8*i+7 .. 8*i` of `w`, all bits from `nbits` up are 0. -/
def tableBytes (nbits w : Nat) : List Byte :=
  (List.range 15).map fun i => BitVec.ofNat 8 ((w % 2 ^ nbits) / 256 ^ i)

/-- The instruction the decoder reads, in 64-bit mode, from an opcode-table word. -/
def decodeTableWord (nbits w : Nat) : Option Instr :=
  match decode true (tableBytes nbits w) with
  | .ok (i, _) => some i
  | .error _ => none

/-! ### The encoder. Fields that are ignored (R68) are written 0. -/

/-- The byte of a legacy prefix (R56). -/
def Prefix.byte : Prefix → Byte
  | .opSize => 0x66#8
  | .addrSize => 0x67#8
  | .seg .cs => 0x2E#8
  | .seg .ss => 0x36#8
  | .seg .ds => 0x3E#8
  | .seg .es => 0x26#8
  | .seg .fs => 0x64#8
  | .seg .gs => 0x65#8
  | .lock => 0xF0#8
  | .repne => 0xF2#8
  | .rep => 0xF3#8

/-- The low three bits of a general-register number. -/
def gLow (r : GReg) : BitVec 3 := r.extractLsb' 0 3

/-- The extension bit of a general-register number. -/
def gHigh (r : GReg) : Bool := r.getLsbD 3

/-- The low three bits of a vector-register number. -/
def vLow (r : VReg) : BitVec 3 := r.extractLsb' 0 3

/-- Four displacement bytes, little-endian. -/
def bytes32 (d : BitVec 32) : List Byte :=
  [d.extractLsb' 0 8, d.extractLsb' 8 8, d.extractLsb' 16 8, d.extractLsb' 24 8]

/-- The `mod` field of an operand with a base register. -/
def Disp.mod : Disp → BitVec 2
  | .none => 0#2
  | .disp8 _ => 1#2
  | .disp32 _ => 2#2

/-- The displacement bytes of an operand with a base register. -/
def Disp.bytes : Disp → List Byte
  | .none => []
  | .disp8 d => [d]
  | .disp32 d => bytes32 d

/-- The SIB index field; no index is 100. -/
def indexLow : Option GReg → BitVec 3
  | some r => gLow r
  | none => 4#3

/-- The index extension bit; 0 when there is no index. -/
def indexHigh : Option GReg → Bool
  | some r => gHigh r
  | none => false

/-- The ModRM byte for a `reg` field and an `r/m` operand, with the SIB and displacement bytes (R54, R55). -/
def Rm.bytes (reg : BitVec 3) : Rm → List Byte
  | .reg r => [3#2 ++ reg ++ vLow r]
  | .mem (.base r disp) => (disp.mod ++ reg ++ gLow r) :: disp.bytes
  | .mem (.disp32 d) => (0#2 ++ reg ++ 5#3) :: bytes32 d
  | .mem (.sib scale index r disp) =>
    (disp.mod ++ reg ++ 4#3) :: (scale ++ indexLow index ++ gLow r) :: disp.bytes
  | .mem (.sibNoBase scale index d) =>
    (0#2 ++ reg ++ 4#3) :: (scale ++ indexLow index ++ 5#3) :: bytes32 d

/-- The bit `X`: the index extension of a memory operand, bit 4 of a register number (EVEX only, R59). -/
def Rm.x : Rm → Bool
  | .reg r => r.getLsbD 4
  | .mem (.base _ _) => false
  | .mem (.disp32 _) => false
  | .mem (.sib _ index _ _) => indexHigh index
  | .mem (.sibNoBase _ index _) => indexHigh index

/-- The bit `B`: the base extension of a memory operand, bit 3 of a register number (R59). -/
def Rm.b : Rm → Bool
  | .reg r => r.getLsbD 3
  | .mem (.base r _) => gHigh r
  | .mem (.disp32 _) => false
  | .mem (.sib _ _ r _) => gHigh r
  | .mem (.sibNoBase _ _ _) => false

/-- The bits `R`, `X`, `B` and one more, high bit first. -/
def bits4 (a b c d : Bool) : BitVec 4 :=
  BitVec.ofBool a ++ BitVec.ofBool b ++ BitVec.ofBool c ++ BitVec.ofBool d

/-- The REX byte `0100 W R X B` with `W = 0` (R56). -/
def rexByte (d : VReg) (rm : Rm) : Byte := 4#4 ++ bits4 false (d.getLsbD 3) rm.x rm.b

/-- The payload byte of a two-byte VEX prefix (R57). -/
def vex2Byte (d s1 : VReg) (l : Bool) : Byte :=
  BitVec.ofBool (!d.getLsbD 3) ++ ~~~ s1.extractLsb' 0 4 ++ BitVec.ofBool l ++ 1#2

/-- The first payload byte of a three-byte VEX prefix (R57). -/
def vex3Byte1 (d : VReg) (rm : Rm) : Byte :=
  BitVec.ofBool (!d.getLsbD 3) ++ BitVec.ofBool (!rm.x) ++ BitVec.ofBool (!rm.b) ++ 1#5

/-- The second payload byte of a three-byte VEX prefix, with `W = 0` (R57). -/
def vex3Byte2 (s1 : VReg) (l : Bool) : Byte :=
  0#1 ++ ~~~ s1.extractLsb' 0 4 ++ BitVec.ofBool l ++ 1#2

/-- `P0` of an EVEX prefix (R58). -/
def evexP0 (d : VReg) (rm : Rm) : Byte :=
  bits4 (!d.getLsbD 3) (!rm.x) (!rm.b) (!d.getLsbD 4) ++ 1#4

/-- `P1` of an EVEX prefix (R58). -/
def evexP1 (s1 : VReg) : Byte := 1#1 ++ ~~~ s1.extractLsb' 0 4 ++ 5#3

/-- `P2` of an EVEX prefix (R58). -/
def evexP2 (z : Bool) (ll : BitVec 2) (b : Bool) (s1 : VReg) (k : BitVec 3) : Byte :=
  BitVec.ofBool z ++ ll ++ BitVec.ofBool b ++ BitVec.ofBool (!s1.getLsbD 4) ++ k

/-- The bytes between the legacy prefixes and the ModRM byte. -/
def Instr.head : Instr → List Byte
  | .shufpd _ _ _ _ => [0x0F#8, 0xC6#8]
  | .shufpdRex _ d rm _ => [rexByte d rm, 0x0F#8, 0xC6#8]
  | .vshufpdVex2L128 _ d s1 _ _ => [0xC5#8, vex2Byte d s1 false, 0xC6#8]
  | .vshufpdVex3L128 _ d s1 rm _ => [0xC4#8, vex3Byte1 d rm, vex3Byte2 s1 false, 0xC6#8]
  | .vshufpdVex2L256 _ d s1 _ _ => [0xC5#8, vex2Byte d s1 true, 0xC6#8]
  | .vshufpdVex3L256 _ d s1 rm _ => [0xC4#8, vex3Byte1 d rm, vex3Byte2 s1 true, 0xC6#8]
  | .vshufpdEvex128 _ d k z s1 rm b _ => [0x62#8, evexP0 d rm, evexP1 s1, evexP2 z 0#2 b s1 k, 0xC6#8]
  | .vshufpdEvex256 _ d k z s1 rm b _ => [0x62#8, evexP0 d rm, evexP1 s1, evexP2 z 1#2 b s1 k, 0xC6#8]
  | .vshufpdEvex512 _ d k z s1 rm b _ => [0x62#8, evexP0 d rm, evexP1 s1, evexP2 z 2#2 b s1 k, 0xC6#8]

/-- The bytes of an instruction (R50, R56 to R63). -/
def encode (i : Instr) : List Byte :=
  i.pfx.map Prefix.byte ++ i.head ++ i.src2.bytes (vLow i.dest) ++ [i.imm8]

end Sys2Proof
end

