-- ==== Sys2Proof/Machine/State.lean ====
section
/-! DEFINITION. The state of the machine as plain data (spec/10_state.md R10 to R24), the faults
(spec/60_exceptions.md R127, R134), the refusals, and the state after reset. -/

namespace Sys2Proof.Machine

/-- Byte-addressed memory: the listed (address, byte) pairs, in the canonical form of `Memory.wf` (R30, R38).
What an unlisted address reads as is `Config.unlistedByte` (log 7). -/
abbrev Memory := List Host.Cell

/-- The `Fault(name, error code)` outcomes of R134 with the names of R127. A step that answers one changes no
state, and the run stops there (R134, D12): safe, since what a handler does is claimed by nobody. -/
inductive Fault where
  /-- `#UD`, vector 6: a form whose feature flag or enable is false raises it (R130, R131). Safe. -/
  | invalidOpcode
  /-- `#NM`, vector 7: any form raises it when `TS` (R130). Safe. -/
  | deviceNotAvailable
  /-- `#SS(0)`, vector 12: an operand read through SS that the platform answers so (R132). Safe. -/
  | stackSegment
  /-- `#GP(0)`, vector 13: an operand read through another segment that the platform answers so (R132), or a
  misaligned operand of the legacy form (R34, R133). Safe. -/
  | generalProtection
  /-- `#PF(code)`, vector 14: an operand read that the platform answers so (R132). Safe. -/
  | pageFault (code : Nat)
  /-- `#AC(0)`, vector 17: an operand read that the platform answers so (R127, U12). Safe. -/
  | alignmentCheck
  deriving DecidableEq, Repr

/-- Where the spec gives no meaning. Each is safe: the model claims nothing there. -/
inductive Refusal where
  /-- An instruction whose meaning is not written yet; no arm of `exec` answers it in this model. Safe. -/
  | notModelled (mnemonic : String)
  /-- Fetch: the program has bytes that are no admitted in-scope form (R64 step 5, R67, R162, D17, U4 to U9, U19).
  Safe. -/
  | notAdmitted (why : DecodeRefusal)
  /-- A form whose vector length exceeds `MAX_VL` (R16, D26, U11). Safe. -/
  | lengthAboveMaxVl
  /-- Fetch: the launch contradicts R16 (U11). Safe. -/
  | inconsistentLaunch
  /-- Fetch: the launch enables debug, trace, performance or power facilities (R145, U22). Safe. -/
  | facilitiesEnabled
  /-- Fetch: `pc` is the end address, the run has ended normally (R162). Safe. -/
  | programEnded
  /-- Fetch: a form of the program is not wholly before the end address (R162, U19; log 6). Safe. -/
  | outsideProgram
  /-- Fetch, for any form of the program, and the completion of an instruction: `pc + len` reaches the top of the
  address space (R18, D8, U17). Safe. -/
  | pcWraps
  /-- Fetch, for any form of the program, and the operand read: the operand's segment has a base the launch does not
  supply (R39, U16). Safe. -/
  | segmentBaseNotSupplied
  /-- Fetch, for any form of the program, and the operand read: the operand names a location whose read has side
  effects (R37, R44, U16). Safe. -/
  | sideEffectRead
  /-- The operand read: the operand runs past the top of the address space (log 16). Safe. -/
  | operandPastTop
  deriving DecidableEq, Repr

/-- The state of the machine (R10) with the launch parameters (R24). `INVENTORY.md` lists each field. -/
structure State where
  /-- Vector registers `V[0..31]` (R10, R11, R12). -/
  v : Vector Vec 32
  /-- Opmask registers `K[0..7]` (R14). -/
  k : Vector Word 8
  /-- General registers `x[0..15]` (R17). -/
  x : Vector Word 16
  /-- Program counter (R18); below 2^32 outside 64-bit mode. -/
  pc : Word
  /-- EFLAGS, never read and never written (R19; log 8). -/
  eflags : BitVec 32
  /-- MXCSR, never read and never written (R20; log 8). -/
  mxcsr : BitVec 32
  /-- Memory (R30, R38). -/
  mem : Memory
  /-- The end address of the program (R162). -/
  progEnd : Word
  /-- The launch parameters (R4, R21, R24). -/
  launch : Config.Launch
  deriving DecidableEq, Repr

/-- The outcome of one step. -/
abbrev Result := Host.Outcome State Fault Refusal

/-- The launch parameters of `State.reset`: the spec gives no value for any of them (R24, R156). The machine is
the concrete one that D1 names, enabled as R130 says a launch sets it to reason about the shuffle itself; the
platform answers no fault and the flat segments have base 0. DESIGN CHOICE (log 1, 3, 12, 17, 18);
`vex256Upper` is free (log 2). -/
def resetLaunch : Config.Launch where
  maxVl := .v512
  mode64 := true
  hasSse2 := true
  hasAvx := true
  hasAvx512f := true
  hasAvx512vl := true
  enSse := true
  enAvx := true
  enAvx512 := true
  ts := false
  vex256Upper := Config.vex256Upper
  memFault := []
  segBase := { es := some 0, cs := some 0, ss := some 0, ds := some 0, fs := none, gs := none }
  sideEffects := []
  facilities := false

/-- The machine right after reset: the spec gives no reset value for any piece of state (R24, R155, R156), so
every value is the model's (log 1 to 8). No program is loaded: `pc` is the end address (log 6). -/
def State.reset : State where
  v := Vector.replicate 32 (Vector.replicate 8 0)
  k := Vector.replicate 8 0
  x := Vector.replicate 16 0
  pc := 0x1000
  eflags := 0x2
  mxcsr := 0x1F80
  mem := []
  progEnd := 0x1000
  launch := resetLaunch

end Sys2Proof.Machine
end

