-- ==== Sys2Proof/Machine/Ops.lean ====
section
/-! DEFINITION. The named operations over memory, registers and the program counter, taking a fault, and the
admission gates (spec/10_state.md, spec/20_memory.md, spec/60_exceptions.md). -/

namespace Sys2Proof.Machine

/-! ### Taking a fault (R134) -/

/-- Why an instruction stops without changing any state. -/
inductive Stop where
  /-- One of the faults of R127. -/
  | fault (f : Fault)
  /-- The spec gives no meaning. -/
  | refuse (r : Refusal)
  deriving DecidableEq, Repr

/-- R134: a stop ends the step; no state is handed on, so none has changed. There is no delivery and no return
(R136, R137, spec/00_scope.md R3). -/
def Stop.take : Stop → Result
  | .fault f => .fault f
  | .refuse r => .refused r

/-- The vector number of a fault (R127). -/
def Fault.vector : Fault → Nat
  | .invalidOpcode => 6
  | .deviceNotAvailable => 7
  | .stackSegment => 12
  | .generalProtection => 13
  | .pageFault _ => 14
  | .alignmentCheck => 17

/-- The error code of a fault, if it has one (R127). -/
def Fault.errorCode : Fault → Option Nat
  | .invalidOpcode => none
  | .deviceNotAvailable => none
  | .stackSegment => some 0
  | .generalProtection => some 0
  | .pageFault code => some code
  | .alignmentCheck => some 0

/-! ### Memory (R30, R33, R38) -/

/-- The byte at an address. -/
def Memory.read : Memory → Nat → Byte
  | [], _ => Config.unlistedByte
  | (a, b) :: m, addr => if a = addr then b else Memory.read m addr

/-- Put a byte at an address, keeping the canonical form. No in-scope form writes memory (R30): the launch does. -/
def Memory.write : Memory → Nat → Byte → Memory
  | [], addr, byte => if byte = Config.unlistedByte then [] else [(addr, byte)]
  | (a, b) :: m, addr, byte =>
    if addr < a then
      if byte = Config.unlistedByte then (a, b) :: m else (addr, byte) :: (a, b) :: m
    else if addr = a then
      if byte = Config.unlistedByte then m else (addr, byte) :: m
    else (a, b) :: Memory.write m addr byte

/-- Every address is in `lo ≤ a < 2^64`, addresses rise strictly, and no byte is the unlisted one. -/
def Memory.wfFrom (lo : Nat) : Memory → Bool
  | [] => true
  | (a, b) :: m => decide (lo ≤ a) && decide (a < 2 ^ 64) && decide (b ≠ Config.unlistedByte) && Memory.wfFrom (a + 1) m

/-- The canonical form of memory. -/
def Memory.wf (m : Memory) : Bool := Memory.wfFrom 0 m

/-- `MemRead(addr, 8)`: eight bytes, little-endian (R33). -/
def Memory.read64 (m : Memory) (addr : Nat) : Elem :=
  Memory.read m (addr + 7) ++ Memory.read m (addr + 6) ++ Memory.read m (addr + 5) ++ Memory.read m (addr + 4) ++
    Memory.read m (addr + 3) ++ Memory.read m (addr + 2) ++ Memory.read m (addr + 1) ++ Memory.read m addr

/-- The value of a full-width operand: element `j < KL` is `MemRead(ea + 8*j, 8)` (R31, R33); the elements from
`KL` up are no part of the operand and are 0. -/
def Memory.readVec (m : Memory) (vl : VecLen) (ea : Nat) : Vec :=
  let at8 (j : Nat) : Elem := if j < vl.elems then Memory.read64 m (ea + 8 * j) else 0
  #v[at8 0, at8 1, at8 2, at8 3, at8 4, at8 5, at8 6, at8 7]

/-- Write bytes at rising addresses, modulo the 64-bit address space. -/
def Memory.writeBytes (m : Memory) (addr : Nat) : List Byte → Memory
  | [] => m
  | b :: bs => Memory.writeBytes (Memory.write m (addr % 2 ^ 64) b) (addr + 1) bs

/-! ### Registers (R10 to R18) -/

/-- All elements of a vector register. -/
def State.vreg (s : State) (r : VReg) : Vec := s.v[r.toNat]'r.isLt

/-- Write all elements of a vector register. -/
def State.setVreg (s : State) (r : VReg) (val : Vec) : State := { s with v := s.v.set r.toNat val r.isLt }

/-- Opmask register `K[r]`. -/
def State.kreg (s : State) (r : BitVec 3) : Word := s.k[r.toNat]'r.isLt

/-- General register `x[r]` (R17). -/
def State.greg (s : State) (r : GReg) : Word := s.x[r.toNat]'r.isLt

/-- All bits of a vector register, `V[i][511:0]`, high element first (R5, R12). -/
def bitsOf (v : Vec) : BitVec 512 := v[7] ++ v[6] ++ v[5] ++ v[4] ++ v[3] ++ v[2] ++ v[1] ++ v[0]

/-- `XMMi = V[i][127:0]` (R12). -/
def State.xmm (s : State) (r : VReg) : BitVec 128 := (bitsOf (s.vreg r)).extractLsb' 0 128

/-- `YMMi = V[i][255:0]` (R12). -/
def State.ymm (s : State) (r : VReg) : BitVec 256 := (bitsOf (s.vreg r)).extractLsb' 0 256

/-- `ZMMi = V[i][511:0]` (R12). -/
def State.zmm (s : State) (r : VReg) : BitVec 512 := bitsOf (s.vreg r)

/-- `NVREG`: how many vector registers exist (R11). -/
def nvreg (l : Config.Launch) : Nat :=
  if l.mode64 then (if l.hasAvx512f then 32 else 16) else 8

/-- How many general registers exist (R17). -/
def ngreg (l : Config.Launch) : Nat := if l.mode64 then 16 else 8

/-- The width of the program counter and of an effective address (R18, R32). -/
def addrBits (l : Config.Launch) : Nat := if l.mode64 then 64 else 32

/-- The address of the next instruction, `pc + len` (R18). -/
def State.nextPc (s : State) (len : Nat) : Word := s.pc + BitVec.ofNat 64 len

/-- `pc <- pc + len` (R18). -/
def State.advance (s : State) (len : Nat) : State := { s with pc := s.nextPc len }

/-! ### Gates (R16, R66, R130, R131, R135) -/

/-- The checks before an instruction's operands are read, in order: the feature flags of its row (R131), its
vector length (R16; log 20), the enable of its family and then `TS` (R130). -/
def gate (has enabled : Bool) (vl : VecLen) (s : State) : Option Stop :=
  if !has then some (.fault .invalidOpcode)
  else if s.launch.maxVl.bits < vl.bits then some (.refuse .lengthAboveMaxVl)
  else if !enabled then some (.fault .invalidOpcode)
  else if s.launch.ts then some (.fault .deviceNotAvailable)
  else none

/-- The gate of a legacy form (row 1: SSE2). -/
def legacyGate (s : State) : Option Stop := gate s.launch.hasSse2 s.launch.enSse .v128 s

/-- The gate of a VEX form (rows 2, 3: AVX). -/
def vexGate (vl : VecLen) (s : State) : Option Stop := gate s.launch.hasAvx s.launch.enAvx vl s

/-- The feature flags of an EVEX row: AVX512F, and AVX512VL below 512 bits (R66). -/
def hasEvex (l : Config.Launch) : VecLen → Bool
  | .v128 => l.hasAvx512f && l.hasAvx512vl
  | .v256 => l.hasAvx512f && l.hasAvx512vl
  | .v512 => l.hasAvx512f

/-- The gate of an EVEX form (rows 4 to 6). -/
def evexGate (vl : VecLen) (s : State) : Option Stop := gate (hasEvex s.launch vl) s.launch.enAvx512 vl s

/-! ### Completion (R88 steps 4 and 5) -/

/-- R88: one write of the destination register and `pc <- pc + len`, nothing else. R18 refuses a `pc + len`
that reaches the top of the address space. -/
def complete (s : State) (len : Nat) (d : VReg) (val : Vec) : Result :=
  if s.pc.toNat + len < 2 ^ addrBits s.launch then
    .next ((s.setVreg d val).advance len)
  else .refused .pcWraps

end Sys2Proof.Machine
end

