-- ==== Sys2Proof/Machine/Operands.lean ====
section
/-! DEFINITION. Every operand form: the effective address of a memory operand (spec/30_encoding.md R55, R62,
spec/20_memory.md R32, R39), the checks of its read (spec/20_memory.md R34, R35, R37, spec/60_exceptions.md R132 to
R135), and the second source of each family (spec/20_memory.md R31, spec/43_vshufpd_evex.md R105). -/

namespace Sys2Proof.Machine

/-! ### Segments (R39, R55, R56) -/

/-- The segment overrides among the prefix bytes, in order. -/
def overrides : List Prefix → List Segment
  | [] => []
  | .seg σ :: ps => σ :: overrides ps
  | _ :: ps => overrides ps

/-- The override that counts: the one named, or, where different ones are named, a free choice among them
(R56; log 13). -/
def overrideOf : List Segment → Option Segment
  | [] => none
  | σ :: rest =>
    if rest.all (fun τ => τ == σ) then some σ
    else some ((σ :: rest).getD (Config.segmentChoice (σ :: rest) % (rest.length + 1)) σ)

/-- Base register 4 or 5 with the extension bit 0 selects SS, any other operand DS (R55). -/
def baseSegment (r : GReg) : Segment := if r = 4#4 ∨ r = 5#4 then .ss else .ds

/-- The segment used without an override (R55). -/
def defaultSegment : MemOperand → Segment
  | .base r _ => baseSegment r
  | .disp32 _ => .ds
  | .sib _ _ r _ => baseSegment r
  | .sibNoBase _ _ _ => .ds

/-- The segment of a memory operand (R55). -/
def segmentOf (pfx : List Prefix) (m : MemOperand) : Segment :=
  (overrideOf (overrides pfx)).getD (defaultSegment m)

/-- The base of a segment: 0 in 64-bit mode but for FS and GS; otherwise what the launch supplies (R39). -/
def segmentBase (l : Config.Launch) (σ : Segment) : Option Word :=
  if l.mode64 && !(σ == .fs || σ == .gs) then some 0 else l.segBase.of σ

/-! ### Effective address (R55, R62) -/

/-- 32-bit addressing: 32-bit mode, or 64-bit mode with a 67H prefix (R55). -/
def addr32 (l : Config.Launch) (pfx : List Prefix) : Bool := !l.mode64 || pfx.contains .addrSize

/-- The low 32 bits, zero-extended. -/
def low32 (w : Word) : Word := (w.setWidth 32).setWidth 64

/-- A general register as the address computation reads it (R55). -/
def addrReg (s : State) (pfx : List Prefix) (r : GReg) : Word :=
  if addr32 s.launch pfx then low32 (s.greg r) else s.greg r

/-- The displacement of an operand with a base register: `disp8` is scaled by `n` (R55, R62). -/
def Disp.value (n : Nat) : Disp → Word
  | .none => 0
  | .disp8 d => d.signExtend 64 * BitVec.ofNat 64 n
  | .disp32 d => d.signExtend 64

/-- The scaled index (R55). -/
def indexValue (s : State) (pfx : List Prefix) (scale : BitVec 2) : Option GReg → Word
  | none => 0
  | some r => addrReg s pfx r <<< scale.toNat

/-- `base + index + disp` before it is cut to the address size (R55); `len` is the instruction's length, for the
operand relative to the next instruction. -/
def addressSum (s : State) (pfx : List Prefix) (len n : Nat) : MemOperand → Word
  | .base r disp => addrReg s pfx r + Disp.value n disp
  | .disp32 d => (if s.launch.mode64 then s.nextPc len else 0) + d.signExtend 64
  | .sib scale index r disp => addrReg s pfx r + indexValue s pfx scale index + Disp.value n disp
  | .sibNoBase scale index d => indexValue s pfx scale index + d.signExtend 64

/-- `ea = (base + index + disp) mod 2^A` (R55). -/
def addressOffset (s : State) (pfx : List Prefix) (len n : Nat) (m : MemOperand) : Word :=
  if addr32 s.launch pfx then low32 (addressSum s pfx len n m) else addressSum s pfx len n m

/-- `ea` with the base of its segment (R32, R39), 64 bits in 64-bit mode and 32 bits outside it; `none` when the
launch does not supply the base. -/
def effectiveAddress (s : State) (pfx : List Prefix) (len n : Nat) (m : MemOperand) : Option Word :=
  match segmentBase s.launch (segmentOf pfx m) with
  | none => none
  | some base =>
    if s.launch.mode64 then some (addressOffset s pfx len n m + base)
    else some (low32 (addressOffset s pfx len n m + base))

/-! ### The checks of the operand read (R34, R35, R37, R132, R133, R135) -/

/-- Whether an entry of the `MemFault` table speaks of the read of `n` bytes at `ea` through segment `σ`. -/
def entryApplies (σ : Segment) (ea n : Nat) (e : Config.FaultEntry) : Bool :=
  (match e.seg with
    | none => true
    | some τ => τ == σ) &&
  (match e.place with
    | .touches lo hi => decide (ea < hi) && decide (lo < ea + n)
    | .access ea' n' => ea' == ea && n' == n)

/-- The fault a cause stands for: SS rather than GP only through the SS segment (R127, R132). -/
def causeFault (σ : Segment) : Config.FaultCause → Fault
  | .segment => if σ = .ss then .stackSegment else .generalProtection
  | .page code => .pageFault code
  | .alignment => .alignmentCheck

/-- Whether a cause is a segment-limit or canonical violation, a page fault, an alignment check (R135). -/
def isSegmentCause : Config.FaultCause → Bool
  | .segment => true
  | _ => false

/-- See `isSegmentCause`. -/
def isPageCause : Config.FaultCause → Bool
  | .page _ => true
  | _ => false

/-- See `isSegmentCause`. -/
def isAlignmentCause : Config.FaultCause → Bool
  | .alignment => true
  | _ => false

/-- The platform's first applicable entry among the causes `p`. -/
def platformFault (l : Config.Launch) (σ : Segment) (ea n : Nat) (p : Config.FaultCause → Bool) : Option Fault :=
  (l.memFault.find? fun e => entryApplies σ ea n e && p e.cause).map fun e => causeFault σ e.cause

/-- `MemFault(ea, n)`: the platform's answer for the `n` bytes at `ea`, in the order of R135 (R35, R132). -/
def memFault (l : Config.Launch) (σ : Segment) (ea n : Nat) : Option Fault :=
  (platformFault l σ ea n isSegmentCause).or
    ((platformFault l σ ea n isPageCause).or (platformFault l σ ea n isAlignmentCause))

/-- Whether the legacy form's alignment condition is violated (R34, R133). -/
def misaligned (needAlign : Bool) (ea : Nat) : Bool :=
  Config.legacyAlignFault && needAlign && !(ea % 16 == 0)

/-- The fault of an operand read: a misaligned operand of the legacy form raises GP unless a segment-limit or
canonical violation comes first; any other operand meets what the platform answers (R132, R133, R135). -/
def operandFault (needAlign : Bool) (l : Config.Launch) (σ : Segment) (ea n : Nat) : Option Fault :=
  if misaligned needAlign ea then (platformFault l σ ea n isSegmentCause).or (some .generalProtection)
  else memFault l σ ea n

/-- Whether one of the `n` bytes at `ea` is a location whose read has side effects (R37). -/
def touchesSideEffect (l : Config.Launch) (ea n : Nat) : Bool :=
  l.sideEffects.any fun r => decide (ea < r.2) && decide (r.1 < ea + n)

/-- The check of the whole operand before anything is written (R35, R37). -/
def operandStop (needAlign : Bool) (l : Config.Launch) (σ : Segment) (ea n : Nat) : Option Stop :=
  if touchesSideEffect l ea n then some (.refuse .sideEffectRead)
  else
    match operandFault needAlign l σ ea n with
    | some f => some (.fault f)
    | none => if ea + n ≤ 2 ^ addrBits l then none else some (.refuse .operandPastTop)

/-- The address of a memory operand of `n` bytes, checked; `scale` is the `N` of R62. -/
def checkedAddress (needAlign : Bool) (s : State) (pfx : List Prefix) (len scale n : Nat) (m : MemOperand) :
    Except Stop Nat :=
  match effectiveAddress s pfx len scale m with
  | none => .error (.refuse .segmentBaseNotSupplied)
  | some ea =>
    match operandStop needAlign s.launch (segmentOf pfx m) ea.toNat n with
    | some e => .error e
    | none => .ok ea.toNat

/-! ### The memory operand of an instruction -/

/-- The bytes a memory second source of an instruction has (R31). -/
def operandBytes (i : Instr) : Nat := if i.broadcast then 8 else i.vl.bytes

/-- The scale of its one-byte displacement (R62). -/
def dispScale (i : Instr) : Nat := if i.family = .evex then operandBytes i else 1

/-- Why the operand of `i` has no place in a program: its segment has no base that the launch supplies (R39), or
it names a location whose read has side effects (R37). No form writes what the address depends on but `pc`, so
this is known before the program runs. -/
def operandProblem (s : State) (i : Instr) : Option Refusal :=
  match i.src2 with
  | .reg _ => none
  | .mem m =>
    match effectiveAddress s i.pfx i.len (dispScale i) m with
    | none => some .segmentBaseNotSupplied
    | some ea => if touchesSideEffect s.launch ea.toNat (operandBytes i) then some .sideEffectRead else none

/-! ### The second source -/

/-- SRC2 of a legacy or VEX form: a vector register, or `MemRead(ea, VL/8)` (R31). Only the legacy form needs
alignment (R34). -/
def src2Full (needAlign : Bool) (vl : VecLen) (s : State) (pfx : List Prefix) (len : Nat) : Rm → Except Stop Vec
  | .reg r => .ok (s.vreg r)
  | .mem m =>
    match checkedAddress needAlign s pfx len 1 vl.bytes m with
    | .error e => .error e
    | .ok ea => .ok (Memory.readVec s.mem vl ea)

/-- One element in every element below `KL` (R105). -/
def broadcast (vl : VecLen) (q : Elem) : Vec :=
  let at8 (j : Nat) : Elem := if j < vl.elems then q else 0
  #v[at8 0, at8 1, at8 2, at8 3, at8 4, at8 5, at8 6, at8 7]

/-- The compressed-displacement scale `N` of an EVEX form (R62). -/
def evexScale (vl : VecLen) (b : Bool) : Nat := if b then 8 else vl.bytes

/-- `Src2Evex(VL, src2, b)`: a vector register, a full-width memory operand, or one 64-bit memory element in
every element (R105). -/
def src2Evex (vl : VecLen) (s : State) (pfx : List Prefix) (len : Nat) (b : Bool) : Rm → Except Stop Vec
  | .reg r => .ok (s.vreg r)
  | .mem m =>
    match checkedAddress false s pfx len (evexScale vl b) (if b then 8 else vl.bytes) m with
    | .error e => .error e
    | .ok ea =>
      if b then .ok (broadcast vl (Memory.read64 s.mem ea)) else .ok (Memory.readVec s.mem vl ea)

end Sys2Proof.Machine
end

