-- ==== Sys2Proof/Machine/Shuffle.lean ====
section
/-! DEFINITION. The data functions all six forms share: the selection (spec/40_shufpd_common.md R80), the writemask
(spec/43_vshufpd_evex.md R106) and the destination bits above the vector length (R90, R95, R97, R107). -/

namespace Sys2Proof.Machine

/-- `IF imm[i] = 0 THEN lo ELSE hi FI` (R80). -/
def select (imm : Byte) (i : Nat) (lo hi : Elem) : Elem := if imm.getLsbD i = false then lo else hi

/-- `Shuf(VL, A, B, imm)`, line by line as R80 writes it; the elements from `KL` up are no part of the result
and are 0. -/
def shuf (vl : VecLen) (a b : Vec) (imm : Byte) : Vec :=
  #v[ select imm 0 a[0] a[1],
      select imm 1 b[0] b[1],
      if 256 ≤ vl.bits then select imm 2 a[2] a[3] else 0,
      if 256 ≤ vl.bits then select imm 3 b[2] b[3] else 0,
      if 512 ≤ vl.bits then select imm 4 a[4] a[5] else 0,
      if 512 ≤ vl.bits then select imm 5 b[4] b[5] else 0,
      if 512 ≤ vl.bits then select imm 6 a[6] a[7] else 0,
      if 512 ≤ vl.bits then select imm 7 b[6] b[7] else 0 ]

/-- `DEST[MAX_VL-1:VL]` keeps the old elements (R90; R97 `unmodified`). -/
def keepUpper (vl : VecLen) (old t : Vec) : Vec :=
  let at8 (j : Nat) (o n : Elem) : Elem := if j < vl.elems then n else o
  #v[at8 0 old[0] t[0], at8 1 old[1] t[1], at8 2 old[2] t[2], at8 3 old[3] t[3],
     at8 4 old[4] t[4], at8 5 old[5] t[5], at8 6 old[6] t[6], at8 7 old[7] t[7]]

/-- The bits above the vector length of a VEX form: VEX.128 zeroes them (R95), VEX.256 does what `VEX256_UPPER`
says (R97). The elements of `t` from `KL` up are 0. -/
def vexUpper (upper : Config.Vex256Upper) (vl : VecLen) (old t : Vec) : Vec :=
  match vl, upper with
  | .v256, .unmodified => keepUpper .v256 old t
  | .v256, .zeroed => t
  | .v128, _ => t
  | .v512, _ => t

/-- The writemask register `k` as `k1[j]` reads it: `none` is no writemask (R106, R108). -/
def writemask (s : State) (k : BitVec 3) : Option Word := if k = 0#3 then none else some (s.kreg k)

/-- `k1[j] OR *no writemask*` (R106). -/
def maskBit (mask : Option Word) (j : Nat) : Bool :=
  match mask with
  | none => true
  | some m => m.getLsbD j

/-- `MaskWrite(VL, T, Dold, k, z)` (R106), with the elements from `KL` up zeroed whatever the mask is (R107). -/
def maskWrite (vl : VecLen) (t old : Vec) (mask : Option Word) (z : Bool) : Vec :=
  let at8 (j : Nat) (n o : Elem) : Elem :=
    if j < vl.elems then (if maskBit mask j then n else if z then 0 else o) else 0
  #v[at8 0 t[0] old[0], at8 1 t[1] old[1], at8 2 t[2] old[2], at8 3 t[3] old[3],
     at8 4 t[4] old[4], at8 5 t[5] old[5], at8 6 t[6] old[6], at8 7 t[7] old[7]]

end Sys2Proof.Machine
end

