-- ==== Sys2Proof/Machine/Evex.lean ====
section
/-! DEFINITION. The EVEX forms, rows 7 to 9 of spec/opcode_table.json (spec/43_vshufpd_evex.md R105 to R112). -/

namespace Sys2Proof.Machine

/-- R110 to R112: `V[d] <- zext(MaskWrite(VL, Shuf(VL, A, B, imm8), Dold, k, z))`. The operand is read in full
whatever the mask is (R113). -/
def evexShuffle (vl : VecLen) (len : Nat) (pfx : List Prefix) (d : VReg) (k : BitVec 3) (z : Bool) (s1 : VReg)
    (rm : Rm) (b : Bool) (imm : Byte) (s : State) : Result :=
  match evexGate vl s with
  | some e => e.take
  | none =>
    match src2Evex vl s pfx len b rm with
    | .error e => e.take
    | .ok src2 =>
      complete s len d (maskWrite vl (shuf vl (s.vreg s1) src2 imm) (s.vreg d) (writemask s k) z)

/-- `VSHUFPD xmm1 k1 z, xmm2, xmm3/m128/m64bcst, imm8` (R110). -/
def execVshufpdEvex128 (pfx : List Prefix) (d : VReg) (k : BitVec 3) (z : Bool) (s1 : VReg) (rm : Rm) (b : Bool)
    (imm : Byte) (s : State) : Result :=
  evexShuffle .v128 (Instr.vshufpdEvex128 pfx d k z s1 rm b imm).len pfx d k z s1 rm b imm s

/-- `VSHUFPD ymm1 k1 z, ymm2, ymm3/m256/m64bcst, imm8` (R111). -/
def execVshufpdEvex256 (pfx : List Prefix) (d : VReg) (k : BitVec 3) (z : Bool) (s1 : VReg) (rm : Rm) (b : Bool)
    (imm : Byte) (s : State) : Result :=
  evexShuffle .v256 (Instr.vshufpdEvex256 pfx d k z s1 rm b imm).len pfx d k z s1 rm b imm s

/-- `VSHUFPD zmm1 k1 z, zmm2, zmm3/m512/m64bcst, imm8` (R112). -/
def execVshufpdEvex512 (pfx : List Prefix) (d : VReg) (k : BitVec 3) (z : Bool) (s1 : VReg) (rm : Rm) (b : Bool)
    (imm : Byte) (s : State) : Result :=
  evexShuffle .v512 (Instr.vshufpdEvex512 pfx d k z s1 rm b imm).len pfx d k z s1 rm b imm s

end Sys2Proof.Machine
end

