-- ==== Sys2Proof/Machine/Legacy.lean ====
section
/-! DEFINITION. The legacy SSE form, rows 1 and 2 of spec/opcode_table.json (spec/41_shufpd_legacy_sse.md R90). -/

namespace Sys2Proof.Machine

/-- R90: `A` is the old destination, `B` SRC2; `V[d][127:0] <- Shuf(128, A, B, imm8)` and the bits above stay.
All checks and reads precede the write (R85, R88). -/
def legacyShuffle (len : Nat) (pfx : List Prefix) (d : VReg) (rm : Rm) (imm : Byte) (s : State) : Result :=
  match legacyGate s with
  | some e => e.take
  | none =>
    match src2Full true .v128 s pfx len rm with
    | .error e => e.take
    | .ok b => complete s len d (keepUpper .v128 (s.vreg d) (shuf .v128 (s.vreg d) b imm))

/-- `SHUFPD xmm1, xmm2/m128, imm8` without a REX byte (R90). -/
def execShufpd (pfx : List Prefix) (d : VReg) (rm : Rm) (imm : Byte) (s : State) : Result :=
  legacyShuffle (Instr.shufpd pfx d rm imm).len pfx d rm imm s

/-- `SHUFPD xmm1, xmm2/m128, imm8` with a REX byte (R90). -/
def execShufpdRex (pfx : List Prefix) (d : VReg) (rm : Rm) (imm : Byte) (s : State) : Result :=
  legacyShuffle (Instr.shufpdRex pfx d rm imm).len pfx d rm imm s

end Sys2Proof.Machine
end

