-- ==== Sys2Proof/Machine/Vex.lean ====
section
/-! DEFINITION. The VEX forms, rows 3 to 6 of spec/opcode_table.json (spec/42_vshufpd_vex.md R95, R96, R97). -/

namespace Sys2Proof.Machine

/-- R95, R96: `T = Shuf(VL, A, B, imm8)` of SRC1 and SRC2, written to the low `VL` bits of DEST; above them zero
for VL = 128 and what `VEX256_UPPER` says for VL = 256. No alignment condition (R34). -/
def vexShuffle (vl : VecLen) (len : Nat) (pfx : List Prefix) (d s1 : VReg) (rm : Rm) (imm : Byte) (s : State) : Result :=
  match vexGate vl s with
  | some e => e.take
  | none =>
    match src2Full false vl s pfx len rm with
    | .error e => e.take
    | .ok b => complete s len d (vexUpper s.launch.vex256Upper vl (s.vreg d) (shuf vl (s.vreg s1) b imm))

/-- `VSHUFPD xmm1, xmm2, xmm3/m128, imm8`, two-byte VEX (R95). -/
def execVshufpdVex2L128 (pfx : List Prefix) (d s1 : VReg) (rm : Rm) (imm : Byte) (s : State) : Result :=
  vexShuffle .v128 (Instr.vshufpdVex2L128 pfx d s1 rm imm).len pfx d s1 rm imm s

/-- `VSHUFPD xmm1, xmm2, xmm3/m128, imm8`, three-byte VEX (R95). -/
def execVshufpdVex3L128 (pfx : List Prefix) (d s1 : VReg) (rm : Rm) (imm : Byte) (s : State) : Result :=
  vexShuffle .v128 (Instr.vshufpdVex3L128 pfx d s1 rm imm).len pfx d s1 rm imm s

/-- `VSHUFPD ymm1, ymm2, ymm3/m256, imm8`, two-byte VEX (R96). -/
def execVshufpdVex2L256 (pfx : List Prefix) (d s1 : VReg) (rm : Rm) (imm : Byte) (s : State) : Result :=
  vexShuffle .v256 (Instr.vshufpdVex2L256 pfx d s1 rm imm).len pfx d s1 rm imm s

/-- `VSHUFPD ymm1, ymm2, ymm3/m256, imm8`, three-byte VEX (R96). -/
def execVshufpdVex3L256 (pfx : List Prefix) (d s1 : VReg) (rm : Rm) (imm : Byte) (s : State) : Result :=
  vexShuffle .v256 (Instr.vshufpdVex3L256 pfx d s1 rm imm).len pfx d s1 rm imm s

end Sys2Proof.Machine
end

