-- ==== Sys2Proof/Machine/Dispatch.lean ====
section
/-! DEFINITION. The one match from instruction to meaning. -/

namespace Sys2Proof.Machine

def exec (i : Instr) (s : State) : Host.Outcome State Fault Refusal :=
  match i with
  | .shufpd pfx d rm imm => Sys2Proof.Machine.execShufpd pfx d rm imm s
  | .shufpdRex pfx d rm imm => Sys2Proof.Machine.execShufpdRex pfx d rm imm s
  | .vshufpdVex2L128 pfx d s1 rm imm => Sys2Proof.Machine.execVshufpdVex2L128 pfx d s1 rm imm s
  | .vshufpdVex3L128 pfx d s1 rm imm => Sys2Proof.Machine.execVshufpdVex3L128 pfx d s1 rm imm s
  | .vshufpdVex2L256 pfx d s1 rm imm => Sys2Proof.Machine.execVshufpdVex2L256 pfx d s1 rm imm s
  | .vshufpdVex3L256 pfx d s1 rm imm => Sys2Proof.Machine.execVshufpdVex3L256 pfx d s1 rm imm s
  | .vshufpdEvex128 pfx d k z s1 rm b imm => Sys2Proof.Machine.execVshufpdEvex128 pfx d k z s1 rm b imm s
  | .vshufpdEvex256 pfx d k z s1 rm b imm => Sys2Proof.Machine.execVshufpdEvex256 pfx d k z s1 rm b imm s
  | .vshufpdEvex512 pfx d k z s1 rm b imm => Sys2Proof.Machine.execVshufpdEvex512 pfx d k z s1 rm b imm s

end Sys2Proof.Machine
end

