-- ==== Sys2Proof/Machine/Fetch.lean ====
section
/-! DEFINITION. What precedes the meaning of an instruction: the launch checks (spec/10_state.md R16,
spec/60_exceptions.md R145), the fetch and decoding of the bytes at `pc` (spec/20_memory.md R33,
spec/30_encoding.md R64), the admission of the whole program (spec/70_reset_and_hazards.md R162), and the loading of
a program. -/

namespace Sys2Proof.Machine

/-- R16: `HAS_AVX` needs `MAX_VL >= 256` and `HAS_AVX512F` needs `MAX_VL = 512` (U11). -/
def launchConsistent (l : Config.Launch) : Bool :=
  (!l.hasAvx || decide (256 ≤ l.maxVl.bits)) && (!l.hasAvx512f || decide (512 ≤ l.maxVl.bits))

/-- The 15 bytes from `pc` up, in increasing address order (R33, R50); the fetch itself meets no fault (log 21).
Addresses are taken modulo the address space of the mode, 2^64 or 2^32 (the model's choice: R18 leaves the top open;
log 21): no form of a program that runs has a byte past the top, so the bytes fetched there decide no outcome but
the name of a refusal. -/
def fetchBytes (s : State) : List Byte :=
  (List.range 15).map fun i => Memory.read s.mem ((s.pc.toNat + i) % 2 ^ addrBits s.launch)

/-- Why `i`, decoded at `pc`, has no place in the program: its `pc + len` reaches the top of the address space (R18,
D8, U17), it is not wholly before the end address (R162; log 6), or its operand has none (R37, R39, U16). -/
def formProblem (s : State) (i : Instr) : Option Refusal :=
  if 2 ^ addrBits s.launch ≤ s.pc.toNat + i.len then some .pcWraps
  else if s.progEnd.toNat < s.pc.toNat + i.len then some .outsideProgram
  else operandProblem s i

/-- The admitted in-scope form at `pc`, or why there is none (R64 step 5, R162). -/
def formAt (s : State) : Except Refusal Instr :=
  match decode s.launch.mode64 (fetchBytes s) with
  | .error e => .error (.notAdmitted e)
  | .ok (i, _) =>
    match formProblem s i with
    | some r => .error r
    | none => .ok i

/-- Why the program from `pc` to the end address is no sequence of admitted in-scope forms at consecutive addresses
(R162), the first reason in address order. `fuel` bounds the number of forms. -/
def programProblem : (fuel : Nat) → State → Option Refusal
  | 0, s => if s.pc = s.progEnd then none else some .outsideProgram
  | fuel + 1, s =>
    if s.pc = s.progEnd then none
    else
      match formAt s with
      | .error r => some r
      | .ok i => programProblem fuel (s.advance i.len)

/-- R162: the rest of the program, which has fewer forms than this fuel since every form has a byte. -/
def restProblem (s : State) : Option Refusal := programProblem (s.progEnd.toNat - s.pc.toNat + 1) s

/-- The instruction at `pc`, or why there is none to run: a launch the spec refuses (U11, U22), the end of the
program, or a program that is refused before it runs because of any of its forms (R162). No step writes the program
or what its admission depends on, so asking this of the rest of the program at every step refuses at the first step
exactly the programs that R162 refuses. -/
def fetch (s : State) : Except Refusal Instr :=
  if s.launch.facilities then .error .facilitiesEnabled
  else if !launchConsistent s.launch then .error .inconsistentLaunch
  else if s.pc = s.progEnd then .error .programEnded
  else
    match restProblem s with
    | some r => .error r
    | none => formAt s

/-- A launch that loads the program `bytes` at `pc`: its bytes in memory and its end address (R24, R162). -/
def State.load (s : State) (bytes : List Byte) : State :=
  { s with mem := Memory.writeBytes s.mem s.pc.toNat bytes
           progEnd := s.pc + BitVec.ofNat 64 bytes.length }

/-- The length of the first instruction of `bytes`, or all of them where there is none. -/
def firstLen (mode64 : Bool) (bytes : List Byte) : Nat :=
  match decode mode64 bytes with
  | .ok (i, _) => i.len
  | .error _ => bytes.length

/-- A launch of the one instruction that `bytes` begins with: all the bytes at `pc`, and the end address behind the
instruction (log 6). -/
def State.loadFirst (s : State) (bytes : List Byte) : State :=
  { s.load bytes with progEnd := s.pc + BitVec.ofNat 64 (firstLen s.launch.mode64 bytes) }

end Sys2Proof.Machine
end

