-- ==== Sys2Proof/Machine/Step.lean ====
section
/-! DEFINITION. One step: fetch, decode, run (spec/10_state.md R10, spec/40_shufpd_common.md R88). -/

namespace Sys2Proof.Machine

/-- One step of the machine. -/
def step (s : State) : Host.Outcome State Fault Refusal :=
  match fetch s with
  | .error r => .refused r
  | .ok i => exec i s

/-- `s` launched on the one instruction whose bits are `w`: its bytes (zeros from `nbits` up to 15 bytes) at
`pc`, and the end address behind the instruction they begin with (log 6). -/
def State.withFetchWord (s : State) (nbits w : Nat) : State := s.loadFirst (tableBytes nbits w)

end Sys2Proof.Machine
end

