-- ==== Sys2Proof/Machine/Control.lean ====
section
/-! DEFINITION. What the Boolean launch parameters stand for in control registers and CPUID words
(spec/10_state.md R21, spec/70_reset_and_hazards.md R157). The machine itself holds the Booleans only (D15). -/

namespace Sys2Proof.Machine

/-- `EN_SSE`: CR0.EM = 0 and CR4.OSFXSR = 1 (R21). -/
def enSseOf (w : Config.ControlWords) : Bool := !w.cr0.getLsbD 2 && w.cr4.getLsbD 9

/-- `EN_AVX`: CR4.OSXSAVE = 1 and XCR0[2:1] = 11 (R21). -/
def enAvxOf (w : Config.ControlWords) : Bool := w.cr4.getLsbD 18 && w.xcr0.getLsbD 1 && w.xcr0.getLsbD 2

/-- `EN_AVX512`: `EN_AVX` and XCR0[7:5] = 111 (R21). -/
def enAvx512Of (w : Config.ControlWords) : Bool :=
  enAvxOf w && w.xcr0.getLsbD 5 && w.xcr0.getLsbD 6 && w.xcr0.getLsbD 7

/-- The launch with the enables, `TS` and the feature flags that the words give (R21). -/
def withControls (l : Config.Launch) (w : Config.ControlWords) : Config.Launch :=
  { l with
    enSse := enSseOf w
    enAvx := enAvxOf w
    enAvx512 := enAvx512Of w
    ts := w.cr0.getLsbD 3
    hasSse2 := w.leaf1Edx.getLsbD 26
    hasAvx := w.leaf1Ecx.getLsbD 28
    hasAvx512f := w.leaf7Ebx.getLsbD 16
    hasAvx512vl := w.leaf7Ebx.getLsbD 31 }

end Sys2Proof.Machine
end

