-- ==== Sys2Proof/Machine/Intrinsics.lean ====
section
/-! DEFINITION. The nine compiler intrinsics as functions of values (spec/30_encoding.md R71): `a` = SRC1, `b` = SRC2,
`imm` = imm8, `k` = the writemask, `s` = the old value of DEST, the result = the new `DEST[VL-1:0]`. -/

namespace Sys2Proof.Machine

/-- `__m128d`, `__m256d`, `__m512d`: vectors of doubles (R71). -/
abbrev M128d := Vector Elem 2
/-- See `M128d`. -/
abbrev M256d := Vector Elem 4
/-- See `M128d`. -/
abbrev M512d := Vector Elem 8
/-- `__mmask8` (R71). -/
abbrev Mmask8 := BitVec 8

/-- A value of the low `KL` elements as register contents. -/
def M128d.wide (a : M128d) : Vec := #v[a[0], a[1], 0, 0, 0, 0, 0, 0]
/-- See `M128d.wide`. -/
def M256d.wide (a : M256d) : Vec := #v[a[0], a[1], a[2], a[3], 0, 0, 0, 0]

/-- `V[127:0]`. -/
def low128 (v : Vec) : M128d := #v[v[0], v[1]]
/-- `V[255:0]`. -/
def low256 (v : Vec) : M256d := #v[v[0], v[1], v[2], v[3]]

/-- The mask bits as a writemask register. -/
def Mmask8.reg (k : Mmask8) : Option Word := some (k.setWidth 64)

/-- `_mm512_shuffle_pd`. -/
def mm512ShufflePd (a b : M512d) (imm : Byte) : M512d := shuf .v512 a b imm
/-- `_mm512_mask_shuffle_pd`. -/
def mm512MaskShufflePd (s : M512d) (k : Mmask8) (a b : M512d) (imm : Byte) : M512d :=
  maskWrite .v512 (shuf .v512 a b imm) s (Mmask8.reg k) false
/-- `_mm512_maskz_shuffle_pd`. -/
def mm512MaskzShufflePd (k : Mmask8) (a b : M512d) (imm : Byte) : M512d :=
  maskWrite .v512 (shuf .v512 a b imm) (Vector.replicate 8 0) (Mmask8.reg k) true
/-- `_mm256_shuffle_pd`. -/
def mm256ShufflePd (a b : M256d) (imm : Byte) : M256d := low256 (shuf .v256 a.wide b.wide imm)
/-- `_mm256_mask_shuffle_pd`. -/
def mm256MaskShufflePd (s : M256d) (k : Mmask8) (a b : M256d) (imm : Byte) : M256d :=
  low256 (maskWrite .v256 (shuf .v256 a.wide b.wide imm) s.wide (Mmask8.reg k) false)
/-- `_mm256_maskz_shuffle_pd`. -/
def mm256MaskzShufflePd (k : Mmask8) (a b : M256d) (imm : Byte) : M256d :=
  low256 (maskWrite .v256 (shuf .v256 a.wide b.wide imm) (Vector.replicate 8 0) (Mmask8.reg k) true)
/-- `_mm_shuffle_pd`. -/
def mmShufflePd (a b : M128d) (imm : Byte) : M128d := low128 (shuf .v128 a.wide b.wide imm)
/-- `_mm_mask_shuffle_pd`. -/
def mmMaskShufflePd (s : M128d) (k : Mmask8) (a b : M128d) (imm : Byte) : M128d :=
  low128 (maskWrite .v128 (shuf .v128 a.wide b.wide imm) s.wide (Mmask8.reg k) false)
/-- `_mm_maskz_shuffle_pd`. -/
def mmMaskzShufflePd (k : Mmask8) (a b : M128d) (imm : Byte) : M128d :=
  low128 (maskWrite .v128 (shuf .v128 a.wide b.wide imm) (Vector.replicate 8 0) (Mmask8.reg k) true)

end Sys2Proof.Machine
end

