-- ==== Sys2Proof/Machine/Flags.lean ====
section
/-! DEFINITION. Flags. No in-scope form reads or writes a status flag, a condition code or MXCSR
(spec/10_state.md R19, R20), and none raises a floating-point exception (spec/60_exceptions.md R125), so there is
no flag computation to write: what the spec gives is that both registers are kept. -/

namespace Sys2Proof.Machine

/-- EFLAGS and MXCSR are the same in both states (R19, R20). -/
abbrev statusKept (s t : State) : Prop := t.eflags = s.eflags ∧ t.mxcsr = s.mxcsr

end Sys2Proof.Machine
end

