-- ==== Sys2Proof/WellFormed.lean ====
section
/-! DEFINITION. Which decoded instructions an encoding admits (spec/30_encoding.md R72): the decoder establishes
it, the machine may assume it. -/

namespace Sys2Proof

/-- How many vector registers a legacy or VEX form can name (R11). -/
def vexRegs (mode64 : Bool) : Nat := if mode64 then 16 else 8

/-- How many vector registers an EVEX form can name (R11). -/
def evexRegs (mode64 : Bool) : Nat := if mode64 then 32 else 8

/-- A base register numbered below `g` that the shape can encode: low bits 101 need a displacement (R55). -/
def baseOk (g : Nat) (r : GReg) (disp : Disp) : Bool :=
  decide (r.toNat < g) && !(gLow r == 5#3 && disp == .none)

/-- An index register numbered below `g`; number 4 is no index (R55). -/
def indexOk (g : Nat) : Option GReg → Bool
  | none => true
  | some r => decide (r.toNat < g) && !(r == 4#4)

/-- A memory operand that ModRM and SIB can encode with general registers below `g` (R55). -/
def MemOperand.wf (g : Nat) : MemOperand → Bool
  | .base r disp => baseOk g r disp && !(gLow r == 4#3)
  | .disp32 _ => true
  | .sib _ index r disp => indexOk g index && baseOk g r disp
  | .sibNoBase _ index _ => indexOk g index

/-- SRC2 with vector registers below `v` and general registers below `g` (R59). -/
def Rm.wf (v g : Nat) : Rm → Bool
  | .reg r => decide (r.toNat < v)
  | .mem m => m.wf g

/-- 16-bit addressing is not admitted: outside 64-bit mode no 67H before a memory operand (R55). -/
def addressingOk (mode64 : Bool) (i : Instr) : Bool :=
  mode64 || !i.pfx.contains .addrSize || i.src2.isReg

/-- The EVEX conditions: `b` implies a memory operand, `z` implies a writemask (R72, R115, R116). -/
def evexOk (k : BitVec 3) (z : Bool) (rm : Rm) (b : Bool) : Bool :=
  !(b && rm.isReg) && !(z && k == 0#3)

/-- The prefixes and the register numbers of each row. -/
def Instr.operandsOk (mode64 : Bool) : Instr → Bool
  | .shufpd pfx d rm _ => legacyPrefixProblem pfx == none && decide (d.toNat < 8) && rm.wf 8 8
  | .shufpdRex pfx d rm _ => mode64 && legacyPrefixProblem pfx == none && decide (d.toNat < 16) && rm.wf 16 16
  | .vshufpdVex2L128 pfx d s1 rm _ => vexPrefixProblem pfx == none && decide (d.toNat < vexRegs mode64) && decide (s1.toNat < vexRegs mode64) && rm.wf 8 8
  | .vshufpdVex3L128 pfx d s1 rm _ => vexPrefixProblem pfx == none && decide (d.toNat < vexRegs mode64) && decide (s1.toNat < vexRegs mode64) && rm.wf (vexRegs mode64) (vexRegs mode64)
  | .vshufpdVex2L256 pfx d s1 rm _ => vexPrefixProblem pfx == none && decide (d.toNat < vexRegs mode64) && decide (s1.toNat < vexRegs mode64) && rm.wf 8 8
  | .vshufpdVex3L256 pfx d s1 rm _ => vexPrefixProblem pfx == none && decide (d.toNat < vexRegs mode64) && decide (s1.toNat < vexRegs mode64) && rm.wf (vexRegs mode64) (vexRegs mode64)
  | .vshufpdEvex128 pfx d k z s1 rm b _ => vexPrefixProblem pfx == none && decide (d.toNat < evexRegs mode64) && decide (s1.toNat < evexRegs mode64) && rm.wf (evexRegs mode64) (vexRegs mode64) && evexOk k z rm b
  | .vshufpdEvex256 pfx d k z s1 rm b _ => vexPrefixProblem pfx == none && decide (d.toNat < evexRegs mode64) && decide (s1.toNat < evexRegs mode64) && rm.wf (evexRegs mode64) (vexRegs mode64) && evexOk k z rm b
  | .vshufpdEvex512 pfx d k z s1 rm b _ => vexPrefixProblem pfx == none && decide (d.toNat < evexRegs mode64) && decide (s1.toNat < evexRegs mode64) && rm.wf (evexRegs mode64) (vexRegs mode64) && evexOk k z rm b

/-- Well-formedness of a decoded instruction in a mode (R72). `VL <= MAX_VL` depends on the launch and is
checked by the machine (R16). -/
def Instr.wf (mode64 : Bool) (i : Instr) : Bool :=
  decide (i.len ≤ 15) && addressingOk mode64 i && i.operandsOk mode64

end Sys2Proof
end

