-- ==== Sys2Proof/Safety.lean ====
section
/-! DEFINITION. The terms claims are stated in: when a form may run, what its second source holds, what a completed
instruction changes, the invariant of the machine, and an admitted program. -/

namespace Sys2Proof.Safety

open Sys2Proof.Machine

/-! ### When a form may run (R16, R130, R131) -/

/-- The CPUID feature flags of an instruction's row (R66). -/
def hasFeatures (l : Config.Launch) (i : Instr) : Bool :=
  match i.family with
  | .legacy => l.hasSse2
  | .vex => l.hasAvx
  | .evex => l.hasAvx512f && (l.hasAvx512vl || i.vl == .v512)

/-- The enable parameter of an instruction's family (R130). -/
def enabled (l : Config.Launch) (i : Instr) : Bool :=
  match i.family with
  | .legacy => l.enSse
  | .vex => l.enAvx
  | .evex => l.enAvx512

/-- The form exists, is admitted against `MAX_VL`, is enabled, and `TS` is false (R16, R130, R131). -/
def ready (s : State) (i : Instr) : Prop :=
  hasFeatures s.launch i = true ∧ i.vl.bits ≤ s.launch.maxVl.bits ∧ enabled s.launch i = true ∧ s.launch.ts = false

/-- `pc + len` stays below the top of the address space (R18). -/
def fits (s : State) (i : Instr) : Prop := s.pc.toNat + i.len < 2 ^ addrBits s.launch

/-- `MemFault` answers "no fault" for the `n` bytes at `ea` through segment `σ`, none of them has a read side
effect, and all of them exist (R35, R37). -/
def readable (l : Config.Launch) (σ : Segment) (ea n : Nat) : Prop :=
  (∀ e ∈ l.memFault, entryApplies σ ea n e = false) ∧ (∀ r ∈ l.sideEffects, ¬(ea < r.2 ∧ r.1 < ea + n)) ∧
    ea + n ≤ 2 ^ addrBits l

/-! ### What the second source holds (R31, R34, R62, R105) -/

/-- SRC2 of `i` can be read in `s`, and `b` holds its `VL` bits: those of a register; those of a readable
full-width memory operand, 16-byte aligned for the legacy form; or the one readable element, in every element. -/
def sourceIs (s : State) (i : Instr) (b : Vec) : Prop :=
  match i.src2 with
  | .reg r => ∀ j : Fin 8, j.val < i.vl.elems → b[j] = (s.vreg r)[j]
  | .mem m => ∃ ea : Word, effectiveAddress s i.pfx i.len (dispScale i) m = some ea ∧
      readable s.launch (segmentOf i.pfx m) ea.toNat (operandBytes i) ∧
      (i.family = .legacy → ea.toNat % 16 = 0) ∧
      ∀ j : Fin 8, j.val < i.vl.elems →
        b[j] = Memory.read64 s.mem (if i.broadcast then ea.toNat else ea.toNat + 8 * j.val)

/-- The element `2p + s` of the 128-bit pair `p = j div 2`, where `s` is bit `j` of the immediate (R81). -/
def pairElem (imm : Byte) (j : Fin 8) (v : Vec) : Elem :=
  v[2 * (j.val / 2) + (imm.getLsbD j.val).toNat]'(by have := Bool.toNat_le (imm.getLsbD j.val); omega)

/-- Element `j` of the selection: from SRC1 when `j` is even, from SRC2 when `j` is odd (R81). -/
def selected (imm : Byte) (j : Fin 8) (a b : Vec) : Elem :=
  if j.val % 2 = 0 then pairElem imm j a else pairElem imm j b

/-- Element `j` is written: there is no writemask, or its mask bit is 1 (R106, R108). -/
def written (s : State) (k : BitVec 3) (j : Fin 8) : Prop := k = 0#3 ∨ (s.kreg k).getLsbD j.val = true

/-! ### What a completed instruction changes (R88) -/

/-- Nothing changes but the vector register `d`, and `pc`, which becomes `pc + len`: no other vector register, no
opmask register, no general register, no flag, no byte of memory, no launch parameter (R88, R18, R19, R20, R30). -/
def changesOnly (s t : State) (d : VReg) (len : Nat) : Prop :=
  (∀ r : VReg, r ≠ d → t.vreg r = s.vreg r) ∧ t.k = s.k ∧ t.x = s.x ∧ statusKept s t ∧
    (∀ a : Nat, Memory.read t.mem a = Memory.read s.mem a) ∧ t.progEnd = s.progEnd ∧ t.launch = s.launch ∧
    t.pc = s.pc + BitVec.ofNat 64 len

/-- The outcome with its next state, if there is one, changed by `f`. -/
def mapNext (f : State → State) : Result → Result
  | .next t => .next (f t)
  | .fault e => .fault e
  | .refused r => .refused r

/-- The EVEX form of a vector length (R110, R111, R112). -/
def evexInstr (vl : VecLen) (pfx : List Prefix) (d : VReg) (k : BitVec 3) (z : Bool) (s1 : VReg) (rm : Rm) (b : Bool)
    (imm : Byte) : Instr :=
  match vl with
  | .v128 => .vshufpdEvex128 pfx d k z s1 rm b imm
  | .v256 => .vshufpdEvex256 pfx d k z s1 rm b imm
  | .v512 => .vshufpdEvex512 pfx d k z s1 rm b imm

/-! ### The address computation over the integers (R55) -/

/-- A general register as the address computation reads it: its low 32 bits with 32-bit addressing. -/
def regValue (s : State) (pfx : List Prefix) (r : GReg) : Int :=
  if addr32 s.launch pfx then ((s.greg r).toNat % 2 ^ 32 : Nat) else (s.greg r).toNat

/-- The general registers an operand names (R55). -/
def gregsOf : Rm → List GReg
  | .reg _ => []
  | .mem (.base r _) => [r]
  | .mem (.disp32 _) => []
  | .mem (.sib _ index r _) => r :: index.toList
  | .mem (.sibNoBase _ index _) => index.toList

/-- A displacement as a signed number, `disp8` scaled by `n`. -/
def dispValue (n : Nat) : Disp → Int
  | .none => 0
  | .disp8 d => d.toInt * n
  | .disp32 d => d.toInt

/-- The index register times `2^scale`. -/
def scaledIndex (s : State) (pfx : List Prefix) (scale : BitVec 2) : Option GReg → Int
  | none => 0
  | some r => regValue s pfx r * 2 ^ scale.toNat

/-- `base + index + disp`, exactly. -/
def addressValue (s : State) (pfx : List Prefix) (len n : Nat) : MemOperand → Int
  | .base r disp => regValue s pfx r + dispValue n disp
  | .disp32 d => (if s.launch.mode64 then (s.pc.toNat + len : Int) else 0) + d.toInt
  | .sib scale index r disp => regValue s pfx r + scaledIndex s pfx scale index + dispValue n disp
  | .sibNoBase scale index d => scaledIndex s pfx scale index + d.toInt

/-! ### The invariant -/

/-- What every state of a run satisfies when its launch state does: memory is canonical; a vector register holds
nothing above `MAX_VL` (R10); a register that does not exist holds nothing (R11); `pc` has its width (R18) and has
not passed the end of the program (R162). -/
def Inv (s : State) : Prop :=
  Memory.wf s.mem = true ∧
  (∀ (r : VReg) (j : Fin 8), s.launch.maxVl.elems ≤ j.val → (s.vreg r)[j] = 0) ∧
  (∀ r : VReg, nvreg s.launch ≤ r.toNat → s.vreg r = Vector.replicate 8 0) ∧
  (s.launch.mode64 = false → s.pc.toNat < 2 ^ 32) ∧
  s.pc.toNat ≤ s.progEnd.toNat

/-! ### Programs (R162) -/

/-- `i` is an admitted in-scope form at `pc`: the bytes there decode to it (R64), it ends at or before the end
address (R162; log 6) and below the top of the address space (R18), and a memory operand has a segment base that
the launch supplies (R39) and no location whose read has side effects (R37). -/
def formIs (s : State) (i : Instr) : Prop :=
  (∃ rest, decode s.launch.mode64 (fetchBytes s) = .ok (i, rest)) ∧ s.pc.toNat + i.len ≤ s.progEnd.toNat ∧ fits s i ∧
    ∀ m : MemOperand, i.src2 = .mem m → ∃ ea : Word, effectiveAddress s i.pfx i.len (dispScale i) m = some ea ∧
      ∀ r ∈ s.launch.sideEffects, ¬(ea.toNat < r.2 ∧ r.1 < ea.toNat + operandBytes i)

/-- From `pc` to the end address lie exactly `n` admitted in-scope forms, under a launch the spec admits (R162,
R16, R145). -/
def admits : Nat → State → Prop
  | 0, s => s.pc = s.progEnd ∧ launchConsistent s.launch = true ∧ s.launch.facilities = false
  | n + 1, s => ∃ i, formIs s i ∧ admits n (s.advance i.len)

end Sys2Proof.Safety
end

