-- ==== Sys2Proof/Certificates/Slice0/Obligations.lean ====
section
/-! DEFINITION. The statements for the provers. Each docstring names the rule of spec/ it comes from, or says that
it rests on a choice of the model and names the log entry. -/

open Sys2Proof Sys2Proof.Machine Sys2Proof.Safety

/-! ### Decode and encode -/

/-- Decoding what the encoder writes for a well-formed instruction, in either mode and whatever follows it, gives
the instruction back with every operand (R54 to R63, R72). -/
def Obligations.DecodeInvertsEncode : Prop :=
  ∀ (mode64 : Bool) (i : Instr) (rest : List Byte), i.wf mode64 = true →
    decode mode64 (encode i ++ rest) = .ok (i, rest)

/-- Whatever the decoder answers is well-formed in its mode (R72: "the decoder establishes it"). -/
def Obligations.DecodedInstructionIsWellFormed : Prop :=
  ∀ (mode64 : Bool) (bs rest : List Byte) (i : Instr), decode mode64 bs = .ok (i, rest) → i.wf mode64 = true

/-- A decoded instruction is 5 to 15 bytes long, and the decoder has consumed exactly its length (R63, R72). -/
def Obligations.DecodeConsumesTheLength : Prop :=
  ∀ (mode64 : Bool) (bs rest : List Byte) (i : Instr), decode mode64 bs = .ok (i, rest) →
    5 ≤ i.len ∧ i.len ≤ 15 ∧ bs.length = i.len + rest.length ∧ rest = bs.drop i.len

/-- Words of spec/95_test_vectors.md section 8, one of each encoding family. -/
def Obligations.SpecWordsDecode : Prop :=
  decode true [0x66, 0x45, 0x0F, 0xC6, 0xC1, 0x03] = .ok (.shufpdRex [.opSize] 8 (.reg 9) 3, []) ∧
  decode true [0xC4, 0xC1, 0x75, 0xC6, 0xC2, 0x05] = .ok (.vshufpdVex3L256 [] 0 1 (.reg 10) 5, []) ∧
  decode true [0x62, 0xA1, 0xED, 0x40, 0xC6, 0xCB, 0x00] =
    .ok (.vshufpdEvex512 [] 17 0 false 18 (.reg 19) false 0, [])

/-- LOCK, F2H and F3H among the legacy prefixes make every encoding inadmissible (R67). -/
def Obligations.LockAndRepeatPrefixesAreRefused : Prop :=
  ∀ (mode64 : Bool) (bs : List Byte),
    (.lock ∈ (takePrefixes bs).1 ∨ .repne ∈ (takePrefixes bs).1 ∨ .rep ∈ (takePrefixes bs).1) →
    ∃ e, decode mode64 bs = .error e

/-- 66H or a REX byte before a VEX or EVEX prefix makes the encoding inadmissible (R57, R58, R67). -/
def Obligations.OperandSizeOrRexBeforeVexIsRefused : Prop :=
  ∀ (mode64 : Bool) (bs rest : List Byte) (b : Byte), (b = 0xC4 ∨ b = 0xC5 ∨ b = 0x62) →
    ((takePrefixes bs).2 = b :: rest → .opSize ∈ (takePrefixes bs).1 → ∃ e, decode mode64 bs = .error e) ∧
    (∀ rex : Byte, field rex 4 4 = 4 → (takePrefixes bs).2 = rex :: b :: rest → ∃ e, decode mode64 bs = .error e)

/-- R115: `EVEX.b = 1` with a register second source is not an admitted form, whatever legacy prefixes stand before
the EVEX prefix (R58). -/
def Obligations.EvexBroadcastOfARegisterIsRefused : Prop :=
  ∀ (mode64 : Bool) (bs : List Byte) (p0 p1 p2 modrm : Byte) (rest : List Byte),
    (takePrefixes bs).2 = 0x62 :: p0 :: p1 :: p2 :: 0xC6 :: modrm :: rest → bitOf p2 4 = true → field modrm 6 2 = 3 →
    ∃ e, decode mode64 bs = .error e

/-- R116: `z = 1` with `aaa = 000` is not an admitted form, whatever legacy prefixes stand before the EVEX prefix
(R58). -/
def Obligations.EvexZeroingWithoutAMaskIsRefused : Prop :=
  ∀ (mode64 : Bool) (bs : List Byte) (p0 p1 p2 : Byte) (rest : List Byte),
    (takePrefixes bs).2 = 0x62 :: p0 :: p1 :: p2 :: 0xC6 :: rest → bitOf p2 7 = true → field p2 0 3 = 0 →
    ∃ e, decode mode64 bs = .error e

/-- EVEX with `W = 0`, with `L'L = 11`, or with a reserved bit that is not as required is refused, and so is,
outside 64-bit mode, one that names a register above 7 through `R'`, `V'` or `vvvv`, whatever legacy prefixes stand
before the EVEX prefix (R58, R59, R60, R67). -/
def Obligations.EvexReservedFieldsAreRefused : Prop :=
  ∀ (mode64 : Bool) (bs : List Byte) (p0 p1 p2 : Byte) (rest : List Byte),
    (takePrefixes bs).2 = 0x62 :: p0 :: p1 :: p2 :: 0xC6 :: rest →
    (bitOf p1 7 = false ∨ field p2 5 2 = 3 ∨ field p0 2 2 ≠ 0 ∨ bitOf p1 2 = false ∨
      (mode64 = false ∧ (bitOf p0 4 = false ∨ bitOf p2 3 = false ∨ bitOf p1 6 = false))) →
    ∃ e, decode mode64 bs = .error e

/-- The `W` bits of a three-byte VEX prefix (WIG) and of a REX byte are ignored: after any legacy prefixes, either
value decodes to the same instruction or to the same refusal (R56, R57, R68, R98). -/
def Obligations.IgnoredWBitsDoNotMatter : Prop :=
  (∀ (mode64 : Bool) (pfx : List Prefix) (p1 p2 : Byte) (rest : List Byte),
    decode mode64 (pfx.map Prefix.byte ++ 0xC4 :: p1 :: (p2 ^^^ 0x80) :: rest) =
      decode mode64 (pfx.map Prefix.byte ++ 0xC4 :: p1 :: p2 :: rest)) ∧
  (∀ (pfx : List Prefix) (rex : Byte) (rest : List Byte), field rex 4 4 = 4 →
    decode true (pfx.map Prefix.byte ++ (rex ^^^ 0x08) :: rest) = decode true (pfx.map Prefix.byte ++ rex :: rest))

/-- Every register a decoded instruction names exists: the vector registers on a processor that has the form (R11),
the general registers in the mode (R17). -/
def Obligations.NamedRegistersExist : Prop :=
  ∀ (l : Config.Launch) (bs rest : List Byte) (i : Instr), decode l.mode64 bs = .ok (i, rest) →
    hasFeatures l i = true →
    i.dest.toNat < nvreg l ∧ i.src1.toNat < nvreg l ∧ (∀ r, i.src2 = .reg r → r.toNat < nvreg l) ∧
    ∀ g ∈ gregsOf i.src2, g.toNat < ngreg l

/-- XMM, YMM and ZMM are views of one register: the low 128, 256, 512 bits, and element `j` is bits
`[64*j+63 : 64*j]` (R12, R5). -/
def Obligations.VectorNamesAreViews : Prop :=
  ∀ (s : State) (r : VReg),
    s.xmm r = (s.ymm r).extractLsb' 0 128 ∧ s.ymm r = (s.zmm r).extractLsb' 0 256 ∧
    ∀ j : Fin 8, (s.zmm r).extractLsb' (64 * j.val) 64 = (s.vreg r)[j]

/-! ### The data functions -/

/-- R81: the closed form of the selection. -/
def Obligations.ShufSelectsWithinThePair : Prop :=
  ∀ (vl : VecLen) (a b : Vec) (imm : Byte) (j : Fin 8), j.val < vl.elems → (shuf vl a b imm)[j] = selected imm j a b

/-- R87: the identities, with `lo p`, `hi p` the elements `2p`, `2p+1` of pair `p`. -/
def Obligations.ShufIdentities : Prop :=
  ∀ (vl : VecLen) (a b : Vec) (imm : Byte),
    let lo : Fin 4 → Fin 8 := fun p => ⟨2 * p.val, by omega⟩
    let hi : Fin 4 → Fin 8 := fun p => ⟨2 * p.val + 1, by omega⟩
    let used : Fin 4 → Prop := fun p => 2 * p.val + 1 < vl.elems
    let bits : Bool → Bool → Prop := fun x y =>
      ∀ p : Fin 4, used p → imm.getLsbD (2 * p.val) = x ∧ imm.getLsbD (2 * p.val + 1) = y
    (bits false false → ∀ p, used p → (shuf vl a b imm)[lo p] = a[lo p] ∧ (shuf vl a b imm)[hi p] = b[lo p]) ∧
    (bits true true → ∀ p, used p → (shuf vl a b imm)[lo p] = a[hi p] ∧ (shuf vl a b imm)[hi p] = b[hi p]) ∧
    (bits true false → ∀ p, used p → (shuf vl a a imm)[lo p] = a[hi p] ∧ (shuf vl a a imm)[hi p] = a[lo p]) ∧
    (bits false true → ∀ p, used p → (shuf vl a a imm)[lo p] = a[lo p] ∧ (shuf vl a a imm)[hi p] = a[hi p]) ∧
    (bits false false → ∀ p, used p → (shuf vl a a imm)[lo p] = a[lo p] ∧ (shuf vl a a imm)[hi p] = a[lo p]) ∧
    (bits true true → ∀ p, used p → (shuf vl a a imm)[lo p] = a[hi p] ∧ (shuf vl a a imm)[hi p] = a[hi p]) ∧
    (∀ (p : Fin 4) (imm' : Byte), (∀ j : Fin 8, j ≠ lo p → j ≠ hi p → imm'.getLsbD j.val = imm.getLsbD j.val) →
      ∀ j : Fin 8, j ≠ lo p → j ≠ hi p → (shuf vl a b imm')[j] = (shuf vl a b imm)[j]) ∧
    (∀ (wide : VecLen) (j : Fin 8), j.val < vl.elems → vl.elems ≤ wide.elems →
      (shuf vl a b imm)[j] = (shuf wide a b imm)[j])

/-- R106: the writemask, element by element, as the machine reads it from `K[k]`. -/
def Obligations.MaskWriteFollowsTheMask : Prop :=
  ∀ (s : State) (vl : VecLen) (t old : Vec) (k : BitVec 3) (z : Bool) (j : Fin 8), j.val < vl.elems →
    (written s k j → (maskWrite vl t old (writemask s k) z)[j] = t[j]) ∧
    (¬written s k j → z = false → (maskWrite vl t old (writemask s k) z)[j] = old[j]) ∧
    (¬written s k j → z = true → (maskWrite vl t old (writemask s k) z)[j] = 0)

/-! ### Memory and addresses -/

/-- `MemRead(addr, n)` is little-endian for n = 8, 16, 32, 64: byte `addr + i` supplies bits `[8*i+7 : 8*i]` (R33). -/
def Obligations.OperandReadIsLittleEndian : Prop :=
  ∀ (m : Memory) (addr i : Nat),
    (i < 8 → (Memory.read64 m addr).extractLsb' (8 * i) 8 = Memory.read m (addr + i)) ∧
    (∀ vl : VecLen, i < vl.bytes → (bitsOf (Memory.readVec m vl addr)).extractLsb' (8 * i) 8 = Memory.read m (addr + i))

/-- A byte the launch writes is read back, and every other byte is as before (20_memory.md section 7, "a read
returns, for each byte, the value of the latest write"). -/
def Obligations.MemoryReadsTheLatestWrite : Prop :=
  ∀ (m : Memory) (addr a : Nat) (byte : Byte), Memory.wf m = true →
    Memory.read (Memory.write m addr byte) a = if a = addr then byte else Memory.read m a

/-- `ea = (base + index + disp) mod 2^A` over the integers, for every shape of memory operand and every scale of a
one-byte displacement (R55, R62); and the address the machine reads at is that with the segment base added, 64 bits
wide in 64-bit mode and 32 bits outside it, and there is none where the launch does not supply the base (R32, R39).
That a supplied base is added is log 12. -/
def Obligations.AddressIsTheSumModuloTheAddressSize : Prop :=
  ∀ (s : State) (pfx : List Prefix) (len n : Nat) (m : MemOperand),
    ((addressOffset s pfx len n m).toNat : Int) =
      addressValue s pfx len n m % 2 ^ (if addr32 s.launch pfx then 32 else 64) ∧
    (∀ base : Word, segmentBase s.launch (segmentOf pfx m) = some base →
      ∃ ea : Word, effectiveAddress s pfx len n m = some ea ∧
        ea.toNat = ((addressOffset s pfx len n m).toNat + base.toNat) % 2 ^ (if s.launch.mode64 then 64 else 32)) ∧
    (segmentBase s.launch (segmentOf pfx m) = none → effectiveAddress s pfx len n m = none)

/-- The segment of an operand: SS for base register 4 or 5, DS otherwise, unless an override prefix names one; with
overrides it is one of those named; the base of every segment but FS and GS is 0 in 64-bit mode, and any other base
is what the launch supplies (R55, R56, R39). That equal overrides count as one is log 13, and that an override
counts in 64-bit mode too is log 32. -/
def Obligations.OperandSegment : Prop :=
  (∀ (pfx : List Prefix) (m : MemOperand), (∀ σ, .seg σ ∉ pfx) → segmentOf pfx m = defaultSegment m) ∧
  (∀ (pfx : List Prefix) (m : MemOperand) (σ : Segment), .seg σ ∈ pfx → .seg (segmentOf pfx m) ∈ pfx) ∧
  (∀ (r : GReg) (disp : Disp), defaultSegment (.base r disp) = if r = 4 ∨ r = 5 then .ss else .ds) ∧
  (∀ (r : GReg) (disp : Disp) (scale : BitVec 2) (index : Option GReg),
    defaultSegment (.sib scale index r disp) = if r = 4 ∨ r = 5 then .ss else .ds) ∧
  (∀ d : BitVec 32, defaultSegment (.disp32 d) = .ds) ∧
  (∀ (d : BitVec 32) (scale : BitVec 2) (index : Option GReg), defaultSegment (.sibNoBase scale index d) = .ds) ∧
  (∀ (pfx : List Prefix) (m : MemOperand) (σ : Segment), .seg σ ∈ pfx → (∀ τ, .seg τ ∈ pfx → τ = σ) →
    segmentOf pfx m = σ) ∧
  (∀ (l : Config.Launch) (σ : Segment), segmentBase l σ =
    if l.mode64 = true ∧ σ ≠ .fs ∧ σ ≠ .gs then some 0 else l.segBase.of σ)

/-! ### What each form does when it completes -/

/-- SHUFPD, with and without REX: for every register or readable, aligned memory operand it completes; the low two
elements are selected from the old destination and SRC2, the others stay (R90). -/
def Obligations.LegacyFormsComplete : Prop :=
  ∀ (s : State) (pfx : List Prefix) (d : VReg) (rm : Rm) (imm : Byte) (b : Vec),
    ∀ i ∈ [Instr.shufpd pfx d rm imm, Instr.shufpdRex pfx d rm imm], ready s i → fits s i → sourceIs s i b →
    ∃ t, exec i s = .next t ∧ changesOnly s t d i.len ∧
      ∀ j : Fin 8, (t.vreg d)[j] = if j.val < 2 then selected imm j (s.vreg d) b else (s.vreg d)[j]

/-- VSHUFPD VEX.128, two-byte and three-byte prefix: it completes for every operand that can be read, aligned or
not; the low two elements are selected from SRC1 and SRC2, the others become 0 (R95). -/
def Obligations.Vex128FormsComplete : Prop :=
  ∀ (s : State) (pfx : List Prefix) (d s1 : VReg) (rm : Rm) (imm : Byte) (b : Vec),
    ∀ i ∈ [Instr.vshufpdVex2L128 pfx d s1 rm imm, Instr.vshufpdVex3L128 pfx d s1 rm imm],
    ready s i → fits s i → sourceIs s i b →
    ∃ t, exec i s = .next t ∧ changesOnly s t d i.len ∧
      ∀ j : Fin 8, (t.vreg d)[j] = if j.val < 2 then selected imm j (s.vreg s1) b else 0

/-- VSHUFPD VEX.256, two-byte and three-byte prefix: the low four elements are selected from SRC1 and SRC2, the
others are kept or zeroed as `VEX256_UPPER` says (R96, R97). -/
def Obligations.Vex256FormsComplete : Prop :=
  ∀ (s : State) (pfx : List Prefix) (d s1 : VReg) (rm : Rm) (imm : Byte) (b : Vec),
    ∀ i ∈ [Instr.vshufpdVex2L256 pfx d s1 rm imm, Instr.vshufpdVex3L256 pfx d s1 rm imm],
    ready s i → fits s i → sourceIs s i b →
    ∃ t, exec i s = .next t ∧ changesOnly s t d i.len ∧
      ∀ j : Fin 8, (t.vreg d)[j] =
        if j.val < 4 then selected imm j (s.vreg s1) b
        else if s.launch.vex256Upper = .unmodified then (s.vreg d)[j] else 0

/-- VSHUFPD EVEX.128: for every register, memory or broadcast operand that can be read it completes; each of the
low two elements is selected where the writemask has it written, kept under merging and zeroed under zeroing
where not, and the elements above become 0 (R105 to R107, R110). -/
def Obligations.Evex128FormCompletes : Prop :=
  ∀ (s : State) (pfx : List Prefix) (d s1 : VReg) (k : BitVec 3) (z bc : Bool) (rm : Rm) (imm : Byte) (b : Vec),
    let i := Instr.vshufpdEvex128 pfx d k z s1 rm bc imm
    evexOk k z rm bc = true → ready s i → fits s i → sourceIs s i b →
    ∃ t, exec i s = .next t ∧ changesOnly s t d i.len ∧
      ∀ j : Fin 8,
        (j.val < 2 → written s k j → (t.vreg d)[j] = selected imm j (s.vreg s1) b) ∧
        (j.val < 2 → ¬written s k j → (t.vreg d)[j] = if z then 0 else (s.vreg d)[j]) ∧
        (2 ≤ j.val → (t.vreg d)[j] = 0)

/-- VSHUFPD EVEX.256: as EVEX.128 with four elements (R105 to R107, R111). -/
def Obligations.Evex256FormCompletes : Prop :=
  ∀ (s : State) (pfx : List Prefix) (d s1 : VReg) (k : BitVec 3) (z bc : Bool) (rm : Rm) (imm : Byte) (b : Vec),
    let i := Instr.vshufpdEvex256 pfx d k z s1 rm bc imm
    evexOk k z rm bc = true → ready s i → fits s i → sourceIs s i b →
    ∃ t, exec i s = .next t ∧ changesOnly s t d i.len ∧
      ∀ j : Fin 8,
        (j.val < 4 → written s k j → (t.vreg d)[j] = selected imm j (s.vreg s1) b) ∧
        (j.val < 4 → ¬written s k j → (t.vreg d)[j] = if z then 0 else (s.vreg d)[j]) ∧
        (4 ≤ j.val → (t.vreg d)[j] = 0)

/-- VSHUFPD EVEX.512: as EVEX.128 with all eight elements (R105, R106, R112). -/
def Obligations.Evex512FormCompletes : Prop :=
  ∀ (s : State) (pfx : List Prefix) (d s1 : VReg) (k : BitVec 3) (z bc : Bool) (rm : Rm) (imm : Byte) (b : Vec),
    let i := Instr.vshufpdEvex512 pfx d k z s1 rm bc imm
    evexOk k z rm bc = true → ready s i → fits s i → sourceIs s i b →
    ∃ t, exec i s = .next t ∧ changesOnly s t d i.len ∧
      ∀ j : Fin 8,
        (written s k j → (t.vreg d)[j] = selected imm j (s.vreg s1) b) ∧
        (¬written s k j → (t.vreg d)[j] = if z then 0 else (s.vreg d)[j])

/-! ### Rules about the destination, the mask and the immediate -/

/-- R83: the immediate bits above the select controls have no effect on the outcome of any form. -/
def Obligations.IgnoredImmediateBitsHaveNoEffect : Prop :=
  ∀ (s : State) (pfx : List Prefix) (d s1 : VReg) (k : BitVec 3) (z b : Bool) (rm : Rm) (imm imm' : Byte),
    ((∀ j, j < 2 → imm'.getLsbD j = imm.getLsbD j) →
      exec (.shufpd pfx d rm imm') s = exec (.shufpd pfx d rm imm) s ∧
      exec (.shufpdRex pfx d rm imm') s = exec (.shufpdRex pfx d rm imm) s ∧
      exec (.vshufpdVex2L128 pfx d s1 rm imm') s = exec (.vshufpdVex2L128 pfx d s1 rm imm) s ∧
      exec (.vshufpdVex3L128 pfx d s1 rm imm') s = exec (.vshufpdVex3L128 pfx d s1 rm imm) s ∧
      exec (.vshufpdEvex128 pfx d k z s1 rm b imm') s = exec (.vshufpdEvex128 pfx d k z s1 rm b imm) s) ∧
    ((∀ j, j < 4 → imm'.getLsbD j = imm.getLsbD j) →
      exec (.vshufpdVex2L256 pfx d s1 rm imm') s = exec (.vshufpdVex2L256 pfx d s1 rm imm) s ∧
      exec (.vshufpdVex3L256 pfx d s1 rm imm') s = exec (.vshufpdVex3L256 pfx d s1 rm imm) s ∧
      exec (.vshufpdEvex256 pfx d k z s1 rm b imm') s = exec (.vshufpdEvex256 pfx d k z s1 rm b imm) s)

/-- R107: after every EVEX form the destination is zero above the vector length, whatever the mask and the masking
kind. -/
def Obligations.EvexZeroesAboveTheVectorLength : Prop :=
  ∀ (s t : State) (i : Instr) (j : Fin 8), i.family = .evex → exec i s = .next t → i.vl.elems ≤ j.val →
    (t.vreg i.dest)[j] = 0

/-- R109: under merging-masking a masked-off element keeps the old value; with no writemask, or with zeroing, the
old destination has no influence on the result. -/
def Obligations.OnlyMergingReadsTheDestination : Prop :=
  ∀ (s t : State) (vl : VecLen) (pfx : List Prefix) (d s1 : VReg) (k : BitVec 3) (z b : Bool) (rm : Rm) (imm : Byte),
    exec (evexInstr vl pfx d k z s1 rm b imm) s = .next t →
    (k ≠ 0 → z = false → ∀ j : Fin 8, j.val < vl.elems → (s.kreg k).getLsbD j.val = false →
      (t.vreg d)[j] = (s.vreg d)[j]) ∧
    (k = 0 ∨ z = true → d ≠ s1 → rm ≠ .reg d → ∀ old : Vec,
      ∃ t', exec (evexInstr vl pfx d k z s1 rm b imm) (s.setVreg d old) = .next t' ∧ t'.vreg d = t.vreg d)

/-- R15: only the bits `KL-1 .. 0` of an opmask register are read, and no form writes one. -/
def Obligations.OpmaskBitsAboveTheElementsAreNotRead : Prop :=
  ∀ (s : State) (i : Instr) (k' : Vector Word 8),
    (∀ (r : BitVec 3) (j : Nat), j < i.vl.elems → (k'[r.toNat]'r.isLt).getLsbD j = (s.kreg r).getLsbD j) →
    exec i { s with k := k' } = mapNext (fun t => { t with k := k' }) (exec i s) ∧
    ∀ t, exec i s = .next t → t.k = s.k

/-- R97: with `unmodified` the elements above 255 of a VEX.256 destination keep their value, with `zeroed` they
become 0; and where `MAX_VL = 256` the two readings give the same registers. -/
def Obligations.Vex256UpperBitsFollowTheParameter : Prop :=
  ∀ (s : State) (pfx : List Prefix) (d s1 : VReg) (rm : Rm) (imm : Byte),
    ∀ i ∈ [Instr.vshufpdVex2L256 pfx d s1 rm imm, Instr.vshufpdVex3L256 pfx d s1 rm imm],
    let su : State := { s with launch := { s.launch with vex256Upper := .unmodified } }
    let sz : State := { s with launch := { s.launch with vex256Upper := .zeroed } }
    (∀ t, exec i su = .next t → ∀ j : Fin 8, 4 ≤ j.val → (t.vreg d)[j] = (s.vreg d)[j]) ∧
    (∀ t, exec i sz = .next t → ∀ j : Fin 8, 4 ≤ j.val → (t.vreg d)[j] = 0) ∧
    (∀ t t', Inv s → s.launch.maxVl = .v256 → exec i su = .next t → exec i sz = .next t' → t.v = t'.v)

/-- R91: the legacy form keeps the destination bits above 127, the VEX.128 form zeroes them. -/
def Obligations.LegacyKeepsWhatVex128Zeroes : Prop :=
  ∀ (s t : State) (pfx : List Prefix) (d s1 : VReg) (rm : Rm) (imm : Byte) (j : Fin 8), 2 ≤ j.val →
    (∀ i ∈ [Instr.shufpd pfx d rm imm, Instr.shufpdRex pfx d rm imm],
      exec i s = .next t → (t.vreg d)[j] = (s.vreg d)[j]) ∧
    (∀ i ∈ [Instr.vshufpdVex2L128 pfx d s1 rm imm, Instr.vshufpdVex3L128 pfx d s1 rm imm],
      exec i s = .next t → (t.vreg d)[j] = 0)

/-- R114: an EVEX form gives the same destination for a register and for a full-width memory operand that hold the
same value. -/
def Obligations.RegisterAndMemoryOperandsAgree : Prop :=
  ∀ (s t t' : State) (vl : VecLen) (pfx : List Prefix) (d s1 r : VReg) (k : BitVec 3) (z : Bool) (m : MemOperand)
    (imm : Byte) (ea : Word),
    exec (evexInstr vl pfx d k z s1 (.reg r) false imm) s = .next t →
    exec (evexInstr vl pfx d k z s1 (.mem m) false imm) s = .next t' →
    effectiveAddress s pfx (evexInstr vl pfx d k z s1 (.mem m) false imm).len vl.bytes m = some ea →
    (∀ j : Fin 8, j.val < vl.elems → (s.vreg r)[j] = Memory.read64 s.mem (ea.toNat + 8 * j.val)) →
    t.vreg d = t'.vreg d

/-- The two-byte VEX, three-byte VEX and unmasked EVEX encodings of one register operation agree: on all of the
destination at 128 bits, on its low 256 bits at 256 (R70). -/
def Obligations.EncodingsOfOneOperationAgree : Prop :=
  ∀ (s t2 t3 te : State) (pfx : List Prefix) (d s1 r : VReg) (imm : Byte),
    (exec (.vshufpdVex2L128 pfx d s1 (.reg r) imm) s = .next t2 →
      exec (.vshufpdVex3L128 pfx d s1 (.reg r) imm) s = .next t3 →
      exec (.vshufpdEvex128 pfx d 0 false s1 (.reg r) false imm) s = .next te → t2.v = t3.v ∧ t2.v = te.v) ∧
    (exec (.vshufpdVex2L256 pfx d s1 (.reg r) imm) s = .next t2 →
      exec (.vshufpdVex3L256 pfx d s1 (.reg r) imm) s = .next t3 →
      exec (.vshufpdEvex256 pfx d 0 false s1 (.reg r) false imm) s = .next te →
      t2.v = t3.v ∧ ∀ j : Fin 8, j.val < 4 → (t2.vreg d)[j] = (te.vreg d)[j])

/-- Each of the nine intrinsics gives the low bits of the new destination of its instruction, from the values of
the operands (R71). -/
def Obligations.IntrinsicsGiveTheNewDestination : Prop :=
  ∀ (s t : State) (pfx : List Prefix) (d s1 r : VReg) (k : BitVec 3) (imm : Byte), k ≠ 0 →
    let m : Mmask8 := (s.kreg k).setWidth 8
    let run : Instr → Prop := fun i => exec i s = .next t
    (run (.shufpd pfx d (.reg r) imm) → low128 (t.vreg d) = mmShufflePd (low128 (s.vreg d)) (low128 (s.vreg r)) imm) ∧
    (run (.vshufpdVex2L256 pfx d s1 (.reg r) imm) →
      low256 (t.vreg d) = mm256ShufflePd (low256 (s.vreg s1)) (low256 (s.vreg r)) imm) ∧
    (run (.vshufpdEvex512 pfx d 0 false s1 (.reg r) false imm) →
      t.vreg d = mm512ShufflePd (s.vreg s1) (s.vreg r) imm) ∧
    (run (.vshufpdEvex128 pfx d k false s1 (.reg r) false imm) →
      low128 (t.vreg d) = mmMaskShufflePd (low128 (s.vreg d)) m (low128 (s.vreg s1)) (low128 (s.vreg r)) imm) ∧
    (run (.vshufpdEvex128 pfx d k true s1 (.reg r) false imm) →
      low128 (t.vreg d) = mmMaskzShufflePd m (low128 (s.vreg s1)) (low128 (s.vreg r)) imm) ∧
    (run (.vshufpdEvex256 pfx d k false s1 (.reg r) false imm) →
      low256 (t.vreg d) = mm256MaskShufflePd (low256 (s.vreg d)) m (low256 (s.vreg s1)) (low256 (s.vreg r)) imm) ∧
    (run (.vshufpdEvex256 pfx d k true s1 (.reg r) false imm) →
      low256 (t.vreg d) = mm256MaskzShufflePd m (low256 (s.vreg s1)) (low256 (s.vreg r)) imm) ∧
    (run (.vshufpdEvex512 pfx d k false s1 (.reg r) false imm) →
      t.vreg d = mm512MaskShufflePd (s.vreg d) m (s.vreg s1) (s.vreg r) imm) ∧
    (run (.vshufpdEvex512 pfx d k true s1 (.reg r) false imm) →
      t.vreg d = mm512MaskzShufflePd m (s.vreg s1) (s.vreg r) imm)

/-- R19, R20: no form reads or writes a status flag or MXCSR: with other values there, everything else of the
outcome is the same and the values stay. -/
def Obligations.FlagsAndMxcsrAreNeitherReadNorWritten : Prop :=
  ∀ (s : State) (i : Instr) (flags csr : BitVec 32),
    exec i { s with eflags := flags, mxcsr := csr } =
      mapNext (fun t => { t with eflags := flags, mxcsr := csr }) (exec i s)

/-- A form with a register second source does not read the general registers, and no form writes one (R17). -/
def Obligations.GeneralRegistersServeAddressesOnly : Prop :=
  ∀ (s : State) (i : Instr),
    (∀ (r : VReg) (x' : Vector Word 16), i.src2 = .reg r →
      exec i { s with x := x' } = mapNext (fun t => { t with x := x' }) (exec i s)) ∧
    ∀ t, exec i s = .next t → t.x = s.x

/-! ### Faults and refusals -/

/-- R131: a form whose feature flags are not all reported raises UD. -/
def Obligations.MissingFeatureRaisesInvalidOpcode : Prop :=
  ∀ (s : State) (i : Instr), hasFeatures s.launch i = false → exec i s = .fault .invalidOpcode

/-- R130: a form that exists and is not enabled raises UD; enabled, it raises NM when `TS` is true. -/
def Obligations.DisabledFormsFault : Prop :=
  ∀ (s : State) (i : Instr), hasFeatures s.launch i = true → i.vl.bits ≤ s.launch.maxVl.bits →
    (enabled s.launch i = false → exec i s = .fault .invalidOpcode) ∧
    (enabled s.launch i = true → s.launch.ts = true → exec i s = .fault .deviceNotAvailable)

/-- A legacy form whose memory operand is not 16-byte aligned raises GP(0), where the platform answers no
segment-limit or canonical violation and the operand has no read side effect (R34, R133). That it is GP(0) which is
reported where the platform also answers a page fault or an alignment check for the same operand is the model's
choice (log 31): R135 and U15 let no claim about the hardware depend on it. -/
def Obligations.MisalignedLegacyOperandRaisesGp : Prop :=
  ∀ (s : State) (pfx : List Prefix) (d : VReg) (m : MemOperand) (imm : Byte) (ea : Word),
    ∀ i ∈ [Instr.shufpd pfx d (.mem m) imm, Instr.shufpdRex pfx d (.mem m) imm], ready s i →
    effectiveAddress s pfx i.len 1 m = some ea →
    (∀ e ∈ s.launch.memFault, entryApplies (segmentOf pfx m) ea.toNat 16 e = true → e.cause ≠ .segment) →
    (∀ r ∈ s.launch.sideEffects, ¬(ea.toNat < r.2 ∧ r.1 < ea.toNat + 16)) →
    ea.toNat % 16 ≠ 0 → exec i s = .fault .generalProtection

/-- R113: an operand one of whose bytes the platform faults makes the instruction fault, whatever the writemask and
the immediate are: with the fault of an entry that speaks of the read, or in the legacy form with GP(0) for a
misaligned address (R132, R135). -/
def Obligations.UnreadableOperandFaultsWhateverTheMask : Prop :=
  ∀ (s : State) (i : Instr) (m : MemOperand) (ea : Word), ready s i → i.src2 = .mem m →
    effectiveAddress s i.pfx i.len (dispScale i) m = some ea →
    (∀ r ∈ s.launch.sideEffects, ¬(ea.toNat < r.2 ∧ r.1 < ea.toNat + operandBytes i)) →
    (∃ e ∈ s.launch.memFault, entryApplies (segmentOf i.pfx m) ea.toNat (operandBytes i) e = true) →
    ∃ f, exec i s = .fault f ∧
      ((i.family = .legacy ∧ ea.toNat % 16 ≠ 0 ∧ f = .generalProtection) ∨
        ∃ e ∈ s.launch.memFault, entryApplies (segmentOf i.pfx m) ea.toNat (operandBytes i) e = true ∧
          f = causeFault (segmentOf i.pfx m) e.cause)

/-- An operand with a byte whose read has side effects is refused (R37, R44), and one whose segment base the launch
does not supply too (R39). That the first refusal comes before a fault of the read is log 17. -/
def Obligations.OperandsOutsideTheModelAreRefused : Prop :=
  ∀ (s : State) (i : Instr) (m : MemOperand), ready s i → i.src2 = .mem m →
    (effectiveAddress s i.pfx i.len (dispScale i) m = none → exec i s = .refused .segmentBaseNotSupplied) ∧
    (∀ ea : Word, effectiveAddress s i.pfx i.len (dispScale i) m = some ea →
      (∃ r ∈ s.launch.sideEffects, ea.toNat < r.2 ∧ r.1 < ea.toNat + operandBytes i) →
      exec i s = .refused .sideEffectRead)

/-- An instruction that would otherwise complete and whose `pc + len` reaches the top of the address space is
refused (R18). That the refusal comes after the faults is log 11. -/
def Obligations.ProgramCounterDoesNotWrap : Prop :=
  ∀ (s : State) (i : Instr) (b : Vec), ready s i → sourceIs s i b → ¬fits s i → exec i s = .refused .pcWraps

/-- A form whose vector length exceeds `MAX_VL` never runs: UD where its features are absent, refused otherwise
(R16, R131; that UD comes first is the model's reading, log 20). -/
def Obligations.FormsAboveMaxVlDoNotRun : Prop :=
  ∀ (s : State) (i : Instr), s.launch.maxVl.bits < i.vl.bits →
    (hasFeatures s.launch i = true → exec i s = .refused .lengthAboveMaxVl) ∧
    (hasFeatures s.launch i = false → exec i s = .fault .invalidOpcode)

/-- The vector numbers and error codes of the faults (R127). -/
def Obligations.FaultNumbers : Prop :=
  (Fault.invalidOpcode.vector = 6 ∧ Fault.invalidOpcode.errorCode = none) ∧
  (Fault.deviceNotAvailable.vector = 7 ∧ Fault.deviceNotAvailable.errorCode = none) ∧
  (Fault.stackSegment.vector = 12 ∧ Fault.stackSegment.errorCode = some 0) ∧
  (Fault.generalProtection.vector = 13 ∧ Fault.generalProtection.errorCode = some 0) ∧
  (∀ code, (Fault.pageFault code).vector = 14 ∧ (Fault.pageFault code).errorCode = some code) ∧
  (Fault.alignmentCheck.vector = 17 ∧ Fault.alignmentCheck.errorCode = some 0)

/-- What the Boolean parameters stand for in control registers and CPUID words (R21). -/
def Obligations.ControlWordsGiveTheParameters : Prop :=
  ∀ (l : Config.Launch) (w : Config.ControlWords),
    ((withControls l w).enSse = true ↔ w.cr0.getLsbD 2 = false ∧ w.cr4.getLsbD 9 = true) ∧
    ((withControls l w).enAvx = true ↔ w.cr4.getLsbD 18 = true ∧ w.xcr0.extractLsb' 1 2 = 3) ∧
    ((withControls l w).enAvx512 = true ↔ (withControls l w).enAvx = true ∧ w.xcr0.extractLsb' 5 3 = 7) ∧
    (withControls l w).ts = w.cr0.getLsbD 3 ∧ (withControls l w).hasSse2 = w.leaf1Edx.getLsbD 26 ∧
    (withControls l w).hasAvx = w.leaf1Ecx.getLsbD 28 ∧ (withControls l w).hasAvx512f = w.leaf7Ebx.getLsbD 16 ∧
    (withControls l w).hasAvx512vl = w.leaf7Ebx.getLsbD 31

/-! ### The whole machine -/

/-- A step runs the decoded instruction: where the program from `pc` on is admitted, `pc` is not its end, and the
bytes at `pc` decode to `i`, the step is `exec i` (R10, R64, R162). That the fetch meets no fault is log 21, and that
a form must lie wholly before the end address is log 6. -/
def Obligations.StepRunsTheDecodedInstruction : Prop :=
  ∀ (n : Nat) (s : State) (i : Instr) (rest : List Byte), admits n s → s.pc ≠ s.progEnd →
    decode s.launch.mode64 (fetchBytes s) = .ok (i, rest) → step s = exec i s

/-- A program that is not a sequence of admitted forms from `pc` to the end address, wherever the form that fails
stands, is refused before it runs: the first step hands on no state and raises no fault (R162, R64 step 5, R18, R37,
R39, R16, R145). That a form must lie wholly before the end address, and that the refusal is the step's, is log 6. -/
def Obligations.ProgramThatIsNotAdmittedIsRefused : Prop :=
  ∀ s : State, (∀ n, ¬admits n s) → ∃ r, step s = .refused r

/-- Before the end of the program, bytes at `pc` that are no admitted form are refused by their name (R64 step 5). -/
def Obligations.UnadmittedBytesAreRefused : Prop :=
  ∀ (s : State) (e : DecodeRefusal), s.launch.facilities = false → launchConsistent s.launch = true →
    s.pc ≠ s.progEnd → decode s.launch.mode64 (fetchBytes s) = .error e → step s = .refused (.notAdmitted e)

/-- R145: a launch that enables debug or trace facilities is refused. -/
def Obligations.LaunchWithFacilitiesIsRefused : Prop :=
  ∀ s : State, s.launch.facilities = true → step s = .refused .facilitiesEnabled

/-- A launch whose feature flags contradict `MAX_VL` is refused (R16; that the whole launch is refused is U11). -/
def Obligations.InconsistentLaunchIsRefused : Prop :=
  ∀ s : State, s.launch.facilities = false →
    ((s.launch.hasAvx = true ∧ s.launch.maxVl = .v128) ∨ (s.launch.hasAvx512f = true ∧ s.launch.maxVl ≠ .v512)) →
    step s = .refused .inconsistentLaunch

/-- At the end address the run has ended (R162); that the model says so by a refusal is log 6. -/
def Obligations.RunEndsAtTheEndAddress : Prop :=
  ∀ s : State, s.launch.facilities = false → launchConsistent s.launch = true → s.pc = s.progEnd →
    step s = .refused .programEnded

/-- Every step that hands on a state changes one vector register, the destination of the fetched instruction, and
advances `pc` by its length; nothing else changes (R18, R88). -/
def Obligations.StepChangesOneRegisterAndPc : Prop :=
  ∀ s t : State, step s = .next t → ∃ i, fetch s = .ok i ∧ changesOnly s t i.dest i.len

/-- The invariant holds at reset; the reset values are the model's (log 1 to 8). -/
def Obligations.InvariantHoldsAtReset : Prop := Inv State.reset

/-- Every step keeps the invariant: memory stays canonical, nothing appears above `MAX_VL` or in a register that
does not exist, `pc` keeps its width and stays within the program (R10, R11, R18, R162). That the elements and registers that do
not exist are held as 0 is log 9. -/
def Obligations.InvariantIsKept : Prop :=
  ∀ s t : State, Inv s → step s = .next t → Inv t

/-- An admitted program of `n` forms terminates: a run of `k` steps that hands on a state has `k ≤ n` and `n - k`
forms left, so after `n` steps it stands at the end address (R162). It is refused only there, or for an operand that
runs past the top of the address space; that the end of a run is said by a refusal, and that a form must lie wholly
before the end address, is the model's choice (log 6), and so is that refusal of an operand (log 16). -/
def Obligations.AdmittedProgramsTerminate : Prop :=
  ∀ (n : Nat) (s : State), admits n s → ∀ k : Nat,
    (∀ t, Host.Core.run Sys2Proof.core k s = .next t → k ≤ n ∧ admits (n - k) t) ∧
    (∀ r, Host.Core.run Sys2Proof.core k s = .refused r → r = .programEnded ∨ r = .operandPastTop)
end

