-- ==== Sys2Proof/Laws/State.lean ====
section
/-! SUPPORT. The fields of a state after each update: one lemma per field per update. -/

namespace Sys2Proof.Machine

variable (s : State) (d r : VReg) (val : Vec) (len : Nat) (bytes : List Byte)

@[simp] theorem setVreg_k : (s.setVreg d val).k = s.k := rfl
@[simp] theorem setVreg_x : (s.setVreg d val).x = s.x := rfl
@[simp] theorem setVreg_pc : (s.setVreg d val).pc = s.pc := rfl
@[simp] theorem setVreg_eflags : (s.setVreg d val).eflags = s.eflags := rfl
@[simp] theorem setVreg_mxcsr : (s.setVreg d val).mxcsr = s.mxcsr := rfl
@[simp] theorem setVreg_mem : (s.setVreg d val).mem = s.mem := rfl
@[simp] theorem setVreg_progEnd : (s.setVreg d val).progEnd = s.progEnd := rfl
@[simp] theorem setVreg_launch : (s.setVreg d val).launch = s.launch := rfl
@[simp] theorem setVreg_kreg (k : BitVec 3) : (s.setVreg d val).kreg k = s.kreg k := rfl
@[simp] theorem setVreg_greg (g : GReg) : (s.setVreg d val).greg g = s.greg g := rfl
@[simp] theorem setVreg_nextPc : (s.setVreg d val).nextPc len = s.nextPc len := rfl

@[simp] theorem advance_v : (s.advance len).v = s.v := rfl
@[simp] theorem advance_k : (s.advance len).k = s.k := rfl
@[simp] theorem advance_x : (s.advance len).x = s.x := rfl
@[simp] theorem advance_pc : (s.advance len).pc = s.pc + BitVec.ofNat 64 len := rfl
@[simp] theorem advance_eflags : (s.advance len).eflags = s.eflags := rfl
@[simp] theorem advance_mxcsr : (s.advance len).mxcsr = s.mxcsr := rfl
@[simp] theorem advance_mem : (s.advance len).mem = s.mem := rfl
@[simp] theorem advance_progEnd : (s.advance len).progEnd = s.progEnd := rfl
@[simp] theorem advance_launch : (s.advance len).launch = s.launch := rfl
@[simp] theorem advance_vreg : (s.advance len).vreg r = s.vreg r := rfl
@[simp] theorem advance_kreg (k : BitVec 3) : (s.advance len).kreg k = s.kreg k := rfl
@[simp] theorem advance_greg (g : GReg) : (s.advance len).greg g = s.greg g := rfl

@[simp] theorem load_v : (s.load bytes).v = s.v := rfl
@[simp] theorem load_k : (s.load bytes).k = s.k := rfl
@[simp] theorem load_x : (s.load bytes).x = s.x := rfl
@[simp] theorem load_pc : (s.load bytes).pc = s.pc := rfl
@[simp] theorem load_eflags : (s.load bytes).eflags = s.eflags := rfl
@[simp] theorem load_mxcsr : (s.load bytes).mxcsr = s.mxcsr := rfl
@[simp] theorem load_mem : (s.load bytes).mem = Memory.writeBytes s.mem s.pc.toNat bytes := rfl
@[simp] theorem load_progEnd : (s.load bytes).progEnd = s.pc + BitVec.ofNat 64 bytes.length := rfl
@[simp] theorem load_launch : (s.load bytes).launch = s.launch := rfl

@[simp] theorem loadFirst_v : (s.loadFirst bytes).v = s.v := rfl
@[simp] theorem loadFirst_k : (s.loadFirst bytes).k = s.k := rfl
@[simp] theorem loadFirst_x : (s.loadFirst bytes).x = s.x := rfl
@[simp] theorem loadFirst_pc : (s.loadFirst bytes).pc = s.pc := rfl
@[simp] theorem loadFirst_eflags : (s.loadFirst bytes).eflags = s.eflags := rfl
@[simp] theorem loadFirst_mxcsr : (s.loadFirst bytes).mxcsr = s.mxcsr := rfl
@[simp] theorem loadFirst_mem : (s.loadFirst bytes).mem = Memory.writeBytes s.mem s.pc.toNat bytes := rfl
@[simp] theorem loadFirst_progEnd :
    (s.loadFirst bytes).progEnd = s.pc + BitVec.ofNat 64 (firstLen s.launch.mode64 bytes) := rfl
@[simp] theorem loadFirst_launch : (s.loadFirst bytes).launch = s.launch := rfl

/-- A vector register after a write of `d`. -/
theorem setVreg_vreg : (s.setVreg d val).vreg r = if r = d then val else s.vreg r := by
  simp only [State.setVreg, State.vreg, Vector.getElem_set, BitVec.toNat_inj]
  by_cases h : d = r
  · simp [h]
  · simp [h, Ne.symm h]

@[simp] theorem setVreg_vreg_same : (s.setVreg d val).vreg d = val := by simp [setVreg_vreg]

theorem setVreg_vreg_ne {s : State} {d r : VReg} {val : Vec} (h : r ≠ d) : (s.setVreg d val).vreg r = s.vreg r := by
  simp [setVreg_vreg, h]

end Sys2Proof.Machine
end

