-- ==== Sys2Proof/Laws/Memory.lean ====
section
/-! SUPPORT. Every memory operation keeps the canonical form, and the memory of the reset state has it. -/

namespace Sys2Proof.Machine

theorem Memory.wfFrom_nil (lo : Nat) : Memory.wfFrom lo [] = true := rfl

theorem Memory.wfFrom_cons (lo a : Nat) (b : Byte) (m : Memory) :
    Memory.wfFrom lo ((a, b) :: m) = true ↔
      lo ≤ a ∧ a < 2 ^ 64 ∧ b ≠ Config.unlistedByte ∧ Memory.wfFrom (a + 1) m = true := by
  simp [Memory.wfFrom, and_assoc]

/-- Fewer addresses are excluded by a lower bound. -/
theorem Memory.wfFrom_mono {lo lo' : Nat} {m : Memory} (h : Memory.wfFrom lo m = true) (hl : lo' ≤ lo) :
    Memory.wfFrom lo' m = true := by
  cases m with
  | nil => rfl
  | cons c m =>
    obtain ⟨a, b⟩ := c
    rw [Memory.wfFrom_cons] at h ⊢
    exact ⟨hl.trans h.1, h.2⟩

/-- Writing a byte at an address from `lo` up keeps the form from `lo` up. -/
theorem Memory.write_wfFrom {m : Memory} {lo addr : Nat} {byte : Byte} (h : Memory.wfFrom lo m = true)
    (hlo : lo ≤ addr) (ha : addr < 2 ^ 64) : Memory.wfFrom lo (Memory.write m addr byte) = true := by
  induction m generalizing lo with
  | nil =>
    simp only [Memory.write]
    split
    · rfl
    · next hb => exact (Memory.wfFrom_cons ..).2 ⟨hlo, ha, hb, rfl⟩
  | cons c m ih =>
    obtain ⟨a, b⟩ := c
    have hc := (Memory.wfFrom_cons ..).1 h
    simp only [Memory.write]
    split
    · next hlt =>
      split
      · exact h
      · next hb =>
        exact (Memory.wfFrom_cons ..).2 ⟨hlo, ha, hb, (Memory.wfFrom_cons ..).2 ⟨hlt, hc.2⟩⟩
    · next hge =>
      split
      · next heq =>
        subst heq
        split
        · exact Memory.wfFrom_mono hc.2.2.2 (by omega)
        · next hb => exact (Memory.wfFrom_cons ..).2 ⟨hlo, ha, hb, hc.2.2.2⟩
      · next hne =>
        exact (Memory.wfFrom_cons ..).2 ⟨hc.1, hc.2.1, hc.2.2.1, ih hc.2.2.2 (by omega)⟩

theorem Memory.write_wf {m : Memory} {addr : Nat} {byte : Byte} (h : Memory.wf m = true) (ha : addr < 2 ^ 64) :
    Memory.wf (Memory.write m addr byte) = true := Memory.write_wfFrom h (Nat.zero_le _) ha

theorem Memory.writeBytes_wf {m : Memory} {addr : Nat} {bytes : List Byte} (h : Memory.wf m = true) :
    Memory.wf (Memory.writeBytes m addr bytes) = true := by
  induction bytes generalizing m addr with
  | nil => exact h
  | cons b bs ih => exact ih (Memory.write_wf h (Nat.mod_lt _ (by decide)))

theorem load_mem_wf {s : State} {bytes : List Byte} (h : Memory.wf s.mem = true) :
    Memory.wf (s.load bytes).mem = true := Memory.writeBytes_wf h

theorem reset_mem_wf : Memory.wf State.reset.mem = true := rfl

end Sys2Proof.Machine
end

