-- ==== Sys2Proof/Laws/Ops.lean ====
section
/-! SUPPORT. For each shared operation, once, everything it can do. -/

namespace Sys2Proof.Machine

/-- A stop never hands on a state. -/
theorem take_ne_next (e : Stop) (t : State) : e.take ≠ .next t := by cases e <;> simp [Stop.take]

/-- A completed instruction: there was room, one register was written and `pc` advanced. -/
theorem complete_next {s t : State} {len : Nat} {d : VReg} {val : Vec} :
    complete s len d val = .next t ↔
      s.pc.toNat + len < 2 ^ addrBits s.launch ∧ t = (s.setVreg d val).advance len := by
  unfold complete
  split
  · next h => simp [h, eq_comm]
  · next h => simp [h]

theorem complete_no_fault {s : State} {len : Nat} {d : VReg} {val : Vec} (f : Fault) :
    complete s len d val ≠ .fault f := by
  unfold complete; split <;> simp

/-- The gate is open exactly when the form exists, is admitted, is enabled and `TS` is false. -/
theorem gate_none {has en : Bool} {vl : VecLen} {s : State} :
    gate has en vl s = none ↔ has = true ∧ vl.bits ≤ s.launch.maxVl.bits ∧ en = true ∧ s.launch.ts = false := by
  unfold gate
  by_cases hv : s.launch.maxVl.bits < vl.bits
  · cases has <;> simp [hv]
  · cases has <;> cases en <;> cases h : s.launch.ts <;> simp [hv, Nat.le_of_not_lt hv]

/-- An operand may be read exactly when no side effect, no fault and no end of the address space is in its way. -/
theorem operandStop_none {al : Bool} {l : Config.Launch} {σ : Segment} {ea n : Nat} :
    operandStop al l σ ea n = none ↔
      touchesSideEffect l ea n = false ∧ operandFault al l σ ea n = none ∧ ea + n ≤ 2 ^ addrBits l := by
  unfold operandStop
  cases h1 : touchesSideEffect l ea n <;> cases h2 : operandFault al l σ ea n <;> simp

/-- A checked address is the effective address of an operand that may be read. -/
theorem checkedAddress_ok {al : Bool} {s : State} {pfx : List Prefix} {len scale n a : Nat} {m : MemOperand} :
    checkedAddress al s pfx len scale n m = .ok a ↔
      ∃ ea, effectiveAddress s pfx len scale m = some ea ∧ a = ea.toNat ∧
        operandStop al s.launch (segmentOf pfx m) ea.toNat n = none := by
  unfold checkedAddress
  cases h1 : effectiveAddress s pfx len scale m with
  | none => simp
  | some ea =>
    cases h2 : operandStop al s.launch (segmentOf pfx m) ea.toNat n with
    | none => simp [h2, eq_comm]
    | some e => simp [h2]

/-- The second source of a legacy or VEX form. -/
theorem src2Full_ok {al : Bool} {vl : VecLen} {s : State} {pfx : List Prefix} {len : Nat} {rm : Rm} {b : Vec} :
    src2Full al vl s pfx len rm = .ok b ↔
      (∃ r, rm = .reg r ∧ b = s.vreg r) ∨
      (∃ m a, rm = .mem m ∧ checkedAddress al s pfx len 1 vl.bytes m = .ok a ∧ b = Memory.readVec s.mem vl a) := by
  cases rm with
  | reg r => simp [src2Full, eq_comm]
  | mem m =>
    simp only [src2Full]
    cases h : checkedAddress al s pfx len 1 vl.bytes m with
    | error e => simp [h]
    | ok a => simp [h, eq_comm]

/-- The second source of an EVEX form. -/
theorem src2Evex_ok {vl : VecLen} {s : State} {pfx : List Prefix} {len : Nat} {bc : Bool} {rm : Rm} {b : Vec} :
    src2Evex vl s pfx len bc rm = .ok b ↔
      (∃ r, rm = .reg r ∧ b = s.vreg r) ∨
      (∃ m a, rm = .mem m ∧
        checkedAddress false s pfx len (evexScale vl bc) (if bc then 8 else vl.bytes) m = .ok a ∧
        b = if bc then broadcast vl (Memory.read64 s.mem a) else Memory.readVec s.mem vl a) := by
  cases rm with
  | reg r => simp [src2Evex, eq_comm]
  | mem m =>
    simp only [src2Evex]
    cases h : checkedAddress false s pfx len (evexScale vl bc) (if bc then 8 else vl.bytes) m with
    | error e => simp [h]
    | ok a => cases bc <;> simp only [if_true, if_false, Bool.false_eq_true] at h ⊢ <;> simp [h, eq_comm]

/-- All a legacy form does when it completes. -/
theorem legacyShuffle_next {len : Nat} {pfx : List Prefix} {d : VReg} {rm : Rm} {imm : Byte} {s t : State} :
    legacyShuffle len pfx d rm imm s = .next t ↔
      legacyGate s = none ∧ ∃ b, src2Full true .v128 s pfx len rm = .ok b ∧
        complete s len d (keepUpper .v128 (s.vreg d) (shuf .v128 (s.vreg d) b imm)) = .next t := by
  unfold legacyShuffle
  cases h1 : legacyGate s with
  | some e => simp [take_ne_next]
  | none =>
    cases h2 : src2Full true .v128 s pfx len rm with
    | error e => simp [take_ne_next]
    | ok b => simp

/-- All a VEX form does when it completes. -/
theorem vexShuffle_next {vl : VecLen} {len : Nat} {pfx : List Prefix} {d s1 : VReg} {rm : Rm} {imm : Byte}
    {s t : State} :
    vexShuffle vl len pfx d s1 rm imm s = .next t ↔
      vexGate vl s = none ∧ ∃ b, src2Full false vl s pfx len rm = .ok b ∧
        complete s len d (vexUpper s.launch.vex256Upper vl (s.vreg d) (shuf vl (s.vreg s1) b imm)) = .next t := by
  unfold vexShuffle
  cases h1 : vexGate vl s with
  | some e => simp [take_ne_next]
  | none =>
    cases h2 : src2Full false vl s pfx len rm with
    | error e => simp [take_ne_next]
    | ok b => simp

/-- All an EVEX form does when it completes. -/
theorem evexShuffle_next {vl : VecLen} {len : Nat} {pfx : List Prefix} {d : VReg} {k : BitVec 3} {z : Bool}
    {s1 : VReg} {rm : Rm} {bc : Bool} {imm : Byte} {s t : State} :
    evexShuffle vl len pfx d k z s1 rm bc imm s = .next t ↔
      evexGate vl s = none ∧ ∃ b, src2Evex vl s pfx len bc rm = .ok b ∧
        complete s len d (maskWrite vl (shuf vl (s.vreg s1) b imm) (s.vreg d) (writemask s k) z) = .next t := by
  unfold evexShuffle
  cases h1 : evexGate vl s with
  | some e => simp [take_ne_next]
  | none =>
    cases h2 : src2Evex vl s pfx len bc rm with
    | error e => simp [take_ne_next]
    | ok b => simp

end Sys2Proof.Machine
end

