-- ==== Sys2Proof/Laws/PerInstr.lean ====
section
/-! SUPPORT. Statements for all instructions, one lemma per constructor. -/

namespace Sys2Proof

theorem bytes32_length (d : BitVec 32) : (bytes32 d).length = 4 := rfl

theorem Disp.bytes_length (d : Disp) : d.bytes.length = d.len := by cases d <;> rfl

theorem Rm.bytes_length (reg : BitVec 3) (rm : Rm) : (rm.bytes reg).length = 1 + rm.len := by
  cases rm with
  | reg r => rfl
  | mem m => cases m <;> simp [Rm.bytes, Rm.len, Disp.bytes_length, bytes32_length] <;> omega

namespace Laws

/-- The encoder writes exactly as many bytes as R63 counts. -/
def EncodeLength.Statement (i : Instr) : Prop := (encode i).length = i.len

variable (pfx : List Prefix) (d s1 : VReg) (k : BitVec 3) (z b : Bool) (rm : Rm) (imm : Byte)

theorem EncodeLength.shufpd : EncodeLength.Statement (.shufpd pfx d rm imm) := by
  simp [Statement, encode, Instr.len, Instr.head, Instr.headLen, Instr.pfx, Instr.src2, Rm.bytes_length]; omega

theorem EncodeLength.shufpdRex : EncodeLength.Statement (.shufpdRex pfx d rm imm) := by
  simp [Statement, encode, Instr.len, Instr.head, Instr.headLen, Instr.pfx, Instr.src2, Rm.bytes_length]; omega

theorem EncodeLength.vshufpdVex2L128 : EncodeLength.Statement (.vshufpdVex2L128 pfx d s1 rm imm) := by
  simp [Statement, encode, Instr.len, Instr.head, Instr.headLen, Instr.pfx, Instr.src2, Rm.bytes_length]; omega

theorem EncodeLength.vshufpdVex3L128 : EncodeLength.Statement (.vshufpdVex3L128 pfx d s1 rm imm) := by
  simp [Statement, encode, Instr.len, Instr.head, Instr.headLen, Instr.pfx, Instr.src2, Rm.bytes_length]; omega

theorem EncodeLength.vshufpdVex2L256 : EncodeLength.Statement (.vshufpdVex2L256 pfx d s1 rm imm) := by
  simp [Statement, encode, Instr.len, Instr.head, Instr.headLen, Instr.pfx, Instr.src2, Rm.bytes_length]; omega

theorem EncodeLength.vshufpdVex3L256 : EncodeLength.Statement (.vshufpdVex3L256 pfx d s1 rm imm) := by
  simp [Statement, encode, Instr.len, Instr.head, Instr.headLen, Instr.pfx, Instr.src2, Rm.bytes_length]; omega

theorem EncodeLength.vshufpdEvex128 : EncodeLength.Statement (.vshufpdEvex128 pfx d k z s1 rm b imm) := by
  simp [Statement, encode, Instr.len, Instr.head, Instr.headLen, Instr.pfx, Instr.src2, Rm.bytes_length]; omega

theorem EncodeLength.vshufpdEvex256 : EncodeLength.Statement (.vshufpdEvex256 pfx d k z s1 rm b imm) := by
  simp [Statement, encode, Instr.len, Instr.head, Instr.headLen, Instr.pfx, Instr.src2, Rm.bytes_length]; omega

theorem EncodeLength.vshufpdEvex512 : EncodeLength.Statement (.vshufpdEvex512 pfx d k z s1 rm b imm) := by
  simp [Statement, encode, Instr.len, Instr.head, Instr.headLen, Instr.pfx, Instr.src2, Rm.bytes_length]; omega

end Laws
end Sys2Proof
end

