-- ==== Sys2Proof/Laws/Step.lean ====
section
/-! SUPPORT. Once, what a fetch and a step can do. -/

namespace Sys2Proof.Machine

/-- A step that hands on a state ran the fetched instruction. -/
theorem step_next {s t : State} : step s = .next t ↔ ∃ i, fetch s = .ok i ∧ exec i s = .next t := by
  unfold step
  cases fetch s <;> simp

/-- An operand has its place in a program exactly when its address can be formed and has no read side effect. -/
theorem operandProblem_none {s : State} {i : Instr} :
    operandProblem s i = none ↔
      ∀ m, i.src2 = .mem m → ∃ ea, effectiveAddress s i.pfx i.len (dispScale i) m = some ea ∧
        touchesSideEffect s.launch ea.toNat (operandBytes i) = false := by
  unfold operandProblem
  cases h : i.src2 with
  | reg r => simp
  | mem m =>
    cases h1 : effectiveAddress s i.pfx i.len (dispScale i) m with
    | none => simp [h1]
    | some ea => cases h2 : touchesSideEffect s.launch ea.toNat (operandBytes i) <;> simp [h1, h2]

/-- A form has its place in a program exactly when it does not wrap, ends in it, and its operand has its place. -/
theorem formProblem_none {s : State} {i : Instr} :
    formProblem s i = none ↔
      s.pc.toNat + i.len < 2 ^ addrBits s.launch ∧ s.pc.toNat + i.len ≤ s.progEnd.toNat ∧ operandProblem s i = none := by
  unfold formProblem
  by_cases h1 : 2 ^ addrBits s.launch ≤ s.pc.toNat + i.len
  · simp [h1]
  · by_cases h2 : s.progEnd.toNat < s.pc.toNat + i.len
    · simp [h1, h2]
    · simp [h1, h2, Nat.lt_of_not_le h1, Nat.le_of_not_lt h2]

/-- What a form at `pc` has passed. -/
theorem formAt_ok {s : State} {i : Instr} :
    formAt s = .ok i ↔
      (∃ rest, decode s.launch.mode64 (fetchBytes s) = .ok (i, rest)) ∧ formProblem s i = none := by
  unfold formAt
  cases h : decode s.launch.mode64 (fetchBytes s) with
  | error e => simp
  | ok r =>
    obtain ⟨j, rest⟩ := r
    cases h2 : formProblem s j with
    | none =>
      simp only [h2, Except.ok.injEq, Prod.mk.injEq]
      exact ⟨by rintro rfl; exact ⟨⟨_, rfl, rfl⟩, h2⟩, fun ⟨⟨_, h, _⟩, _⟩ => h⟩
    | some r =>
      simp only [h2, Except.ok.injEq, Prod.mk.injEq, reduceCtorEq, false_iff]
      rintro ⟨⟨_, rfl, _⟩, h⟩
      rw [h] at h2
      cases h2

/-- What a fetch that answers an instruction has checked. -/
theorem fetch_ok {s : State} {i : Instr} :
    fetch s = .ok i ↔
      s.launch.facilities = false ∧ launchConsistent s.launch = true ∧ s.pc ≠ s.progEnd ∧ restProblem s = none ∧
        formAt s = .ok i := by
  unfold fetch
  cases h1 : s.launch.facilities
  swap
  · simp
  cases h2 : launchConsistent s.launch
  · simp
  by_cases h3 : s.pc = s.progEnd
  · simp [h3]
  cases h4 : restProblem s with
  | some r => simp [h3]
  | none => simp [h3]

/-- A program has no problem exactly when it is at its end or its first form has none and the rest has none. -/
theorem programProblem_succ_none {fuel : Nat} {s : State} :
    programProblem (fuel + 1) s = none ↔
      s.pc = s.progEnd ∨ ∃ i, formAt s = .ok i ∧ programProblem fuel (s.advance i.len) = none := by
  rw [programProblem]
  by_cases h : s.pc = s.progEnd
  · simp [h]
  · cases h1 : formAt s <;> simp [h]

/-- Every arm of `exec` that completes writes its destination register and advances `pc`, nothing else. -/
theorem exec_next_shape {i : Instr} {s t : State} (h : exec i s = .next t) :
    s.pc.toNat + i.len < 2 ^ addrBits s.launch ∧ ∃ val, t = (s.setVreg i.dest val).advance i.len := by
  cases i <;> simp only [exec, execShufpd, execShufpdRex, execVshufpdVex2L128, execVshufpdVex3L128,
    execVshufpdVex2L256, execVshufpdVex3L256, execVshufpdEvex128, execVshufpdEvex256, execVshufpdEvex512,
    legacyShuffle_next, vexShuffle_next, evexShuffle_next, complete_next] at h <;>
    obtain ⟨-, _, -, hfit, ht⟩ := h <;> exact ⟨hfit, _, ht⟩

/-! ### Runs -/

theorem run_zero (s : State) : Host.Core.run Sys2Proof.core 0 s = .next s := rfl

/-- A run goes on from the next state. -/
theorem coreRun_of_next (M : Host.Core) {s t : M.State} (h : M.step s = .next t) (k : Nat) :
    M.run (k + 1) s = M.run k t := by rw [Host.Core.run, h]

/-- A run stops at the first fault. -/
theorem coreRun_of_fault (M : Host.Core) {s : M.State} {f : M.Fault} (h : M.step s = .fault f) (k : Nat) :
    M.run (k + 1) s = .fault f := by rw [Host.Core.run, h]

/-- A run stops at the first refusal. -/
theorem coreRun_of_refused (M : Host.Core) {s : M.State} {r : M.Refusal} (h : M.step s = .refused r) (k : Nat) :
    M.run (k + 1) s = .refused r := by rw [Host.Core.run, h]

theorem run_of_next {s t : State} (h : step s = .next t) (k : Nat) :
    Host.Core.run Sys2Proof.core (k + 1) s = Host.Core.run Sys2Proof.core k t := coreRun_of_next Sys2Proof.core h k

theorem run_of_fault {s : State} {f : Fault} (h : step s = .fault f) (k : Nat) :
    Host.Core.run Sys2Proof.core (k + 1) s = .fault f := coreRun_of_fault Sys2Proof.core h k

theorem run_of_refused {s : State} {r : Refusal} (h : step s = .refused r) (k : Nat) :
    Host.Core.run Sys2Proof.core (k + 1) s = .refused r := coreRun_of_refused Sys2Proof.core h k

end Sys2Proof.Machine
end

