-- ==== Sys2Proof/Laws/Safety.lean ====
section
/-! SUPPORT. The terms of Safety unfolded once: the second source by its two forms, the form at `pc`. -/

namespace Sys2Proof.Safety

open Sys2Proof.Machine

theorem sourceIs_reg {s : State} {i : Instr} {b : Vec} {r : VReg} (h : i.src2 = .reg r) :
    sourceIs s i b ↔ ∀ j : Fin 8, j.val < i.vl.elems → b[j] = (s.vreg r)[j] := by
  unfold sourceIs; rw [h]

theorem sourceIs_mem {s : State} {i : Instr} {b : Vec} {m : MemOperand} (h : i.src2 = .mem m) :
    sourceIs s i b ↔ ∃ ea : Word, effectiveAddress s i.pfx i.len (dispScale i) m = some ea ∧
      readable s.launch (segmentOf i.pfx m) ea.toNat (operandBytes i) ∧ (i.family = .legacy → ea.toNat % 16 = 0) ∧
      ∀ j : Fin 8, j.val < i.vl.elems →
        b[j] = Memory.read64 s.mem (if i.broadcast then ea.toNat else ea.toNat + 8 * j.val) := by
  unfold sourceIs; rw [h]

theorem touchesSideEffect_false {l : Config.Launch} {ea n : Nat} :
    touchesSideEffect l ea n = false ↔ ∀ r ∈ l.sideEffects, ¬(ea < r.2 ∧ r.1 < ea + n) := by
  unfold touchesSideEffect; simp

/-- The form a claim speaks of at `pc` is the one the machine finds there. -/
theorem formIs_iff {s : State} {i : Instr} : formIs s i ↔ formAt s = .ok i := by
  rw [formAt_ok, formProblem_none, operandProblem_none]
  unfold formIs fits
  simp only [touchesSideEffect_false]
  tauto

/-- The form at `pc` does not depend on the vector registers, the opmask registers or the flags. -/
theorem formAt_congr {s t : State} (hx : t.x = s.x) (hm : t.mem = s.mem) (hp : t.pc = s.pc)
    (he : t.progEnd = s.progEnd) (hl : t.launch = s.launch) : formAt t = formAt s := by
  cases s; cases t; simp only at *; subst hx hm hp he hl; rfl

end Sys2Proof.Safety
end

