-- ==== Sys2Proof/Machine/Assembler.lean ====
section
/-! DEFINITION. The assembler text of an instruction in the spelling of spec/30_encoding.md R69: destination first,
`k` after the destination, a memory operand with its size keyword and the broadcast mark after it. Prefix bytes,
for which R69 gives no spelling, and the choice between the VEX and EVEX encodings (R70) do not show. -/

namespace Sys2Proof.Machine

/-- Text in braces. -/
def braced (t : String) : String := String.singleton (Char.ofNat 123) ++ t ++ String.singleton (Char.ofNat 125)

/-- `xmm`, `ymm`, `zmm` and the register number. -/
def vregText (vl : VecLen) (r : VReg) : String :=
  (match vl with
    | .v128 => "xmm"
    | .v256 => "ymm"
    | .v512 => "zmm") ++ toString r.toNat

/-- The names of the registers 0 to 7 without their first letter (R17). -/
def gregStem (n : Nat) : String := ["ax", "cx", "dx", "bx", "sp", "bp", "si", "di"].getD n ""

/-- The name of a general register as an address of 64 or 32 bits uses it (R17, R55). -/
def gregText (a64 : Bool) (r : GReg) : String :=
  if r.toNat < 8 then (if a64 then "r" else "e") ++ gregStem r.toNat
  else "r" ++ toString r.toNat ++ (if a64 then "" else "d")

/-- A signed displacement after something else. -/
def signedText (d : Int) : String := if d < 0 then "-" ++ toString d.natAbs else "+" ++ toString d.natAbs

/-- The displacement in bytes, `disp8` scaled by `n` (R62). -/
def dispText (n : Nat) : Disp → String
  | .none => ""
  | .disp8 d => signedText (d.toInt * n)
  | .disp32 d => signedText d.toInt

/-- The scaled index after a base. -/
def indexText (a64 : Bool) (scale : BitVec 2) : Option GReg → String
  | none => ""
  | some r => "+" ++ gregText a64 r ++ "*" ++ toString (2 ^ scale.toNat)

/-- The scaled index and displacement without a base. -/
def noBaseText (a64 : Bool) (scale : BitVec 2) (d : BitVec 32) : Option GReg → String
  | none => toString d.toInt
  | some r => gregText a64 r ++ "*" ++ toString (2 ^ scale.toNat) ++ signedText d.toInt

/-- What stands between the square brackets. -/
def memText (mode64 a64 : Bool) (n : Nat) : MemOperand → String
  | .base r disp => gregText a64 r ++ dispText n disp
  | .disp32 d => if mode64 then (if a64 then "rip" else "eip") ++ signedText d.toInt else toString d.toNat
  | .sib scale index r disp => gregText a64 r ++ indexText a64 scale index ++ dispText n disp
  | .sibNoBase scale index d => noBaseText a64 scale d index

/-- The size keyword of a full-width memory operand. -/
def sizeText : VecLen → String
  | .v128 => "xmmword ptr "
  | .v256 => "ymmword ptr "
  | .v512 => "zmmword ptr "

/-- SRC2. -/
def src2Text (mode64 : Bool) (i : Instr) : String :=
  let a64 := mode64 && !i.pfx.contains .addrSize
  match i.src2 with
  | .reg r => vregText i.vl r
  | .mem m =>
    if i.broadcast then "qword ptr [" ++ memText mode64 a64 8 m ++ "]" ++ braced ("1to" ++ toString i.vl.elems)
    else
      sizeText i.vl ++ "[" ++ memText mode64 a64 (if i.family = .evex then i.vl.bytes else 1) m ++ "]"

/-- The destination with writemask and zeroing marks. -/
def destText (i : Instr) : String :=
  vregText i.vl i.dest ++ (if i.mask = 0#3 then "" else braced ("k" ++ toString i.mask.toNat)) ++
    (if i.zeroing then braced "z" else "")

/-- The text of an instruction (R69). -/
def asm (mode64 : Bool) (i : Instr) : String :=
  (if i.family = .legacy then "shufpd " ++ destText i
    else "vshufpd " ++ destText i ++ ", " ++ vregText i.vl i.src1) ++
    ", " ++ src2Text mode64 i ++ ", " ++ toString i.imm8.toNat

end Sys2Proof.Machine
end

