-- ==== Sys2Proof/Tests/Slice0.lean ====
section
/-! SUPPORT. Tests on fixed values. The expected results of the decode and step tests are those of
spec/95_test_vectors.md (the vector's id or the section stands in the name or above the test); each
`witness_<Name>` shows a concrete state and operands that meet the hypotheses of the obligation `<Name>`. -/

namespace Sys2Proof.Tests

open Sys2Proof.Machine Sys2Proof.Safety

/-! ### WellFormed refuses -/

theorem test_wf_admits : (Instr.shufpd [.opSize] 1 (.reg 2) 1).wf true = true := by decide

theorem test_wf_length :
    (Instr.vshufpdVex2L128 (List.replicate 11 (.seg .ds)) 1 2 (.reg 3) 1).wf true = false := by decide

theorem test_wf_address16 :
    (Instr.vshufpdVex2L128 [.addrSize] 1 2 (.mem (.base 0 .none)) 1).wf false = false := by decide

theorem test_wf_legacy_prefixes :
    (Instr.shufpd [] 1 (.reg 2) 1).wf true = false ∧ (Instr.shufpd [.opSize, .lock] 1 (.reg 2) 1).wf true = false ∧
    (Instr.shufpd [.rep, .opSize] 1 (.reg 2) 1).wf true = false := by decide

theorem test_wf_vex_prefixes :
    (Instr.vshufpdVex2L128 [.opSize] 1 2 (.reg 3) 1).wf true = false ∧
    (Instr.vshufpdVex3L256 [.lock] 1 2 (.reg 3) 1).wf true = false ∧
    (Instr.vshufpdEvex512 [.repne] 1 0 false 2 (.reg 3) false 1).wf true = false := by decide

theorem test_wf_legacy_registers :
    (Instr.shufpd [.opSize] 8 (.reg 2) 1).wf true = false ∧ (Instr.shufpd [.opSize] 1 (.reg 8) 1).wf true = false ∧
    (Instr.shufpdRex [.opSize] 16 (.reg 2) 1).wf true = false ∧
    (Instr.shufpdRex [.opSize] 1 (.reg 16) 1).wf true = false := by decide

theorem test_wf_rex_needs_64_bit_mode : (Instr.shufpdRex [.opSize] 1 (.reg 2) 1).wf false = false := by decide

theorem test_wf_vex_registers :
    (Instr.vshufpdVex2L128 [] 16 2 (.reg 3) 1).wf true = false ∧
    (Instr.vshufpdVex2L256 [] 1 16 (.reg 3) 1).wf true = false ∧
    (Instr.vshufpdVex2L128 [] 1 2 (.reg 8) 1).wf true = false ∧
    (Instr.vshufpdVex3L128 [] 1 2 (.reg 16) 1).wf true = false ∧
    (Instr.vshufpdVex3L256 [] 1 8 (.reg 3) 1).wf false = false := by decide

theorem test_wf_evex_registers :
    (Instr.vshufpdEvex128 [] 8 0 false 2 (.reg 3) false 1).wf false = false ∧
    (Instr.vshufpdEvex256 [] 1 0 false 8 (.reg 3) false 1).wf false = false ∧
    (Instr.vshufpdEvex512 [] 1 0 false 2 (.reg 8) false 1).wf false = false := by decide

theorem test_wf_general_registers :
    (Instr.shufpd [.opSize] 1 (.mem (.base 8 .none)) 1).wf true = false ∧
    (Instr.vshufpdVex3L128 [] 1 2 (.mem (.sib 0 (some 8) 0 .none)) 1).wf false = false := by decide

theorem test_wf_base_shapes :
    (Instr.shufpd [.opSize] 1 (.mem (.base 5 .none)) 1).wf true = false ∧
    (Instr.shufpd [.opSize] 1 (.mem (.base 4 .none)) 1).wf true = false ∧
    (Instr.shufpd [.opSize] 1 (.mem (.sib 0 none 5 .none)) 1).wf true = false ∧
    (Instr.shufpd [.opSize] 1 (.mem (.sibNoBase 0 (some 4) 0)) 1).wf true = false := by decide

theorem test_wf_evex_broadcast_and_zeroing :
    (Instr.vshufpdEvex512 [] 1 0 false 2 (.reg 3) true 1).wf true = false ∧
    (Instr.vshufpdEvex512 [] 1 0 true 2 (.reg 3) false 1).wf true = false := by decide

/-! ### Words written out from the spec's encodings decode (95_test_vectors.md sections 8 and 2.4) -/

theorem test_decode_DEC1 :
    decode true [0x66, 0x0F, 0xC6, 0xCA, 0x01] = .ok (.shufpd [.opSize] 1 (.reg 2) 1, []) := rfl

theorem test_decode_DEC6 :
    decode true [0x66, 0x0F, 0xC6, 0x54, 0xCE, 0x10, 0x00] =
      .ok (.shufpd [.opSize] 2 (.mem (.sib 3 (some 1) 6 (.disp8 0x10))) 0, []) := rfl

theorem test_decode_DEC3 :
    decode true [0x66, 0x45, 0x0F, 0xC6, 0xC1, 0x03] = .ok (.shufpdRex [.opSize] 8 (.reg 9) 3, []) := rfl

theorem test_decode_DEC7 :
    decode true [0xC5, 0xE9, 0xC6, 0xCB, 0x01] = .ok (.vshufpdVex2L128 [] 1 2 (.reg 3) 1, []) := rfl

theorem test_decode_DEC9 :
    decode true [0xC4, 0xE1, 0xE9, 0xC6, 0xCB, 0x01] = .ok (.vshufpdVex3L128 [] 1 2 (.reg 3) 1, []) := rfl

theorem test_decode_DEC12 :
    decode true [0xC5, 0xED, 0xC6, 0x48, 0x40, 0x0F] =
      .ok (.vshufpdVex2L256 [] 1 2 (.mem (.base 0 (.disp8 0x40))) 15, []) := rfl

theorem test_decode_DEC11 :
    decode true [0xC4, 0xC1, 0x75, 0xC6, 0xC2, 0x05] = .ok (.vshufpdVex3L256 [] 0 1 (.reg 10) 5, []) := rfl

theorem test_decode_DEC20 :
    decode true [0x62, 0xF1, 0xED, 0x1A, 0xC6, 0x08, 0x02] =
      .ok (.vshufpdEvex128 [] 1 2 false 2 (.mem (.base 0 .none)) true 2, []) := rfl

theorem test_decode_DEC25 :
    decode true [0x62, 0xF1, 0xCD, 0xAB, 0xC6, 0xEF, 0x06] =
      .ok (.vshufpdEvex256 [] 5 3 true 6 (.reg 7) false 6, []) := rfl

theorem test_decode_DEC22 :
    decode true [0x62, 0xA1, 0xED, 0x40, 0xC6, 0xCB, 0x00] =
      .ok (.vshufpdEvex512 [] 17 0 false 18 (.reg 19) false 0, []) := rfl

theorem test_decode_DEC26 :
    decode true [0x62, 0xF1, 0xED, 0x08, 0xC6, 0x0D, 0x10, 0x00, 0x00, 0x00, 0x02] =
      .ok (.vshufpdEvex128 [] 1 0 false 2 (.mem (.disp32 0x10)) false 2, []) := rfl

/-- Section 2.4: SIB with scale 10, ECX, EBX, and the absolute `disp32`, in 32-bit mode. -/
theorem test_decode_32_bit_mode :
    decode false [0xC5, 0xCD, 0xC6, 0x7C, 0x8B, 0x40, 0x05] =
      .ok (.vshufpdVex2L256 [] 7 6 (.mem (.sib 2 (some 1) 3 (.disp8 0x40))) 5, []) ∧
    decode false [0xC5, 0xED, 0xC6, 0x0D, 0x78, 0x56, 0x34, 0x12, 0x03] =
      .ok (.vshufpdVex2L256 [] 1 2 (.mem (.disp32 0x12345678)) 3, []) := ⟨rfl, rfl⟩

/-- F-15 to F-21, section 2.2 and the last line of section 2.4. -/
theorem test_decode_refuses :
    decode true [0x62, 0xF1, 0xED, 0x58, 0xC6, 0xCB, 0x01] = .error .evexBroadcastRegister ∧
    decode true [0x62, 0xF1, 0xED, 0xC8, 0xC6, 0xCB, 0x01] = .error .evexZeroingNoMask ∧
    decode true [0x62, 0xF1, 0x6D, 0x48, 0xC6, 0xCB, 0x01] = .error .evexW0 ∧
    decode true [0x62, 0xF1, 0xED, 0x68, 0xC6, 0xCB, 0x01] = .error .evexLength11 ∧
    decode true [0xF0, 0x66, 0x0F, 0xC6, 0x08, 0x01] = .error .lockPrefix ∧
    decode true [0x0F, 0xC6, 0xCA, 0x01] = .error .noOperandSizePrefix ∧
    decode true [0x66, 0xC5, 0xE9, 0xC6, 0xCB, 0x01] = .error .prefixBeforeVex ∧
    decode true [0x48, 0xC5, 0xE9, 0xC6, 0xCB, 0x01] = .error .prefixBeforeVex ∧
    decode false [0x62, 0xA1, 0xED, 0x40, 0xC6, 0xCB, 0x00] = .error .notInScope ∧
    decode false [0xC5, 0x69, 0xC6, 0xCB, 0x01] = .error .notInScope :=
  ⟨rfl, rfl, rfl, rfl, rfl, rfl, rfl, rfl, rfl, rfl⟩

/-- Opcode-table numbering: bit 0 of the word is bit 0 of the first byte. -/
theorem test_decodeTableWord : decodeTableWord 40 0x01CAC60F66 = some (.shufpd [.opSize] 1 (.reg 2) 1) := rfl

/-! ### One step (95_test_vectors.md sections 4 to 7) -/

/-- Eight elements `tag`, `tag + 1`, ... (`a(j)`, `b(j)`, `d(j)` of the vectors). -/
def vecOf (tag : Nat) : Vec :=
  #v[BitVec.ofNat 64 tag, BitVec.ofNat 64 (tag + 1), BitVec.ofNat 64 (tag + 2), BitVec.ofNat 64 (tag + 3),
     BitVec.ofNat 64 (tag + 4), BitVec.ofNat 64 (tag + 5), BitVec.ofNat 64 (tag + 6), BitVec.ofNat 64 (tag + 7)]

def a (j : Nat) : Elem := BitVec.ofNat 64 (0xAAAAAAAA00000000 + j)
def b (j : Nat) : Elem := BitVec.ofNat 64 (0xBBBBBBBB00000000 + j)
def d (j : Nat) : Elem := BitVec.ofNat 64 (0xDDDDDDDD00000000 + j)
def m (j : Nat) : Elem := BitVec.ofNat 64 (0xEEEEEEEE00000000 + j)

/-- The bytes of `m 0`, `m 1`, ... at `MEM = 0x2000`. -/
def dataBytes (n : Nat) : List Byte :=
  ((List.range n).map fun j => [BitVec.ofNat 8 j, 0, 0, 0, 0xEE, 0xEE, 0xEE, 0xEE]).flatten

/-- The state of sections 5 and 6 with three memory elements, at a launch where `VEX256_UPPER = zeroed`; the legacy
vectors of section 4 run on it with `V[3]`, which holds their `[b0..b7]`, for their `V[2]`. -/
def start : State :=
  { State.reset with
    v := (((((State.reset.v.set 1 (vecOf 0xDDDDDDDD00000000)).set 2 (vecOf 0xAAAAAAAA00000000)).set 3
      (vecOf 0xBBBBBBBB00000000)).set 8 (vecOf 0xDDDDDDDD00000000)).set 9 (vecOf 0xBBBBBBBB00000000)).set 10
      (vecOf 0xBBBBBBBB00000000)
    k := #v[0, 0x0F, 0xFFFFFFFFFFFFFF02, 0x05, 0, 0xA5, 0, 0]
    x := (State.reset.x.set 0 0x2000).set 3 0x2000
    mem := Memory.writeBytes [] 0x2000 (dataBytes 3)
    launch := { resetLaunch with vex256Upper := .zeroed } }

/-- The other value of `VEX256_UPPER`. -/
def startU : State := { start with launch := { start.launch with vex256Upper := .unmodified } }

/-- The step completes with `V[r] = val` and `pc`. -/
def gives (o : Result) (r : VReg) (val : Vec) (pc : Word) : Bool :=
  match o with
  | .next t => t.vreg r == val && t.pc == pc
  | .fault _ => false
  | .refused _ => false

/-- The step ends in the fault `f`. -/
def faults (o : Result) (f : Fault) : Bool :=
  match o with
  | .next _ => false
  | .fault e => e == f
  | .refused _ => false

/-- The step is refused for `r`. -/
def refuses (o : Result) (r : Refusal) : Bool :=
  match o with
  | .next _ => false
  | .fault _ => false
  | .refused e => e == r

theorem test_L2 :
    gives (step (start.load [0x66, 0x0F, 0xC6, 0xCB, 0x01])) 1 #v[d 1, b 0, d 2, d 3, d 4, d 5, d 6, d 7] 0x1005 =
      true := by decide

theorem test_L9 :
    gives (step (start.load [0x66, 0x0F, 0xC6, 0x08, 0x02])) 1 #v[d 0, m 1, d 2, d 3, d 4, d 5, d 6, d 7] 0x1005 =
      true := by decide

theorem test_L12 :
    gives (step (start.load [0x66, 0x45, 0x0F, 0xC6, 0xC1, 0x03])) 8 #v[d 1, b 1, d 2, d 3, d 4, d 5, d 6, d 7]
      0x1006 = true := by decide

theorem test_X8 :
    gives (step (start.load [0xC5, 0xF1, 0xC6, 0xC9, 0x01])) 1 #v[d 1, d 0, 0, 0, 0, 0, 0, 0] 0x1005 = true := by
  decide

theorem test_X10 :
    gives (step (start.load [0xC5, 0xE9, 0xC6, 0x48, 0x08, 0x03])) 1 #v[a 1, m 2, 0, 0, 0, 0, 0, 0] 0x1006 =
      true := by decide

theorem test_X6 :
    gives (step (start.load [0xC4, 0xE1, 0xE9, 0xC6, 0xCB, 0x01])) 1 #v[a 1, b 0, 0, 0, 0, 0, 0, 0] 0x1006 =
      true := by decide

theorem test_Y2 :
    gives (step (start.load [0xC5, 0xED, 0xC6, 0xCB, 0x05])) 1 #v[a 1, b 0, a 3, b 2, 0, 0, 0, 0] 0x1005 = true ∧
    gives (step (startU.load [0xC5, 0xED, 0xC6, 0xCB, 0x05])) 1 #v[a 1, b 0, a 3, b 2, d 4, d 5, d 6, d 7] 0x1005 =
      true := by decide

theorem test_Y6 :
    gives (step (start.load [0xC4, 0xC1, 0x6D, 0xC6, 0xCA, 0x09])) 1 #v[a 1, b 0, a 2, b 3, 0, 0, 0, 0] 0x1006 =
      true := by decide

theorem test_E12 :
    gives (step (start.load [0x62, 0xF1, 0xED, 0x0A, 0xC6, 0xCB, 0x01])) 1 #v[d 0, b 0, 0, 0, 0, 0, 0, 0] 0x1007 =
      true := by decide

theorem test_E22 :
    gives (step (start.load [0x62, 0xF1, 0xED, 0x18, 0xC6, 0x48, 0x01, 0x03])) 1 #v[a 1, m 1, 0, 0, 0, 0, 0, 0]
      0x1008 = true := by decide

theorem test_E16 :
    gives (step (start.load [0x62, 0xF1, 0xED, 0x2B, 0xC6, 0xCB, 0x06])) 1 #v[a 0, d 1, a 3, d 3, 0, 0, 0, 0] 0x1007 =
      true := by decide

theorem test_E17 :
    gives (step (start.load [0x62, 0xF1, 0xED, 0xAB, 0xC6, 0xCB, 0x06])) 1 #v[a 0, 0, a 3, 0, 0, 0, 0, 0] 0x1007 =
      true := by decide

theorem test_E6 :
    gives (step (start.load [0x62, 0xF1, 0xED, 0x4D, 0xC6, 0xCB, 0x55])) 1
      #v[a 1, d 1, a 3, d 3, d 4, b 4, d 6, b 6] 0x1007 = true := by decide

theorem test_E20 :
    gives (step (start.load [0x62, 0xF1, 0xED, 0x58, 0xC6, 0x08, 0xFF])) 1
      #v[a 1, m 0, a 3, m 0, a 5, m 0, a 7, m 0] 0x1007 = true := by decide

/-- F-4: not enabled comes before `TS`; F-9: the legacy operand at `MEM + 8`; F-12: every element masked off, and
the operand read faults all the same. -/
theorem test_faults :
    faults (step (State.load { start with launch := { start.launch with ts := true, enSse := false } }
      [0x66, 0x0F, 0xC6, 0xCA, 0x01])) .invalidOpcode = true ∧
    faults (step (start.load [0x66, 0x0F, 0xC6, 0x48, 0x08, 0x01])) .generalProtection = true ∧
    faults (step (State.load
      { start with launch := { start.launch with memFault := [⟨.access 0x2000 64, none, .page 4⟩] } }
      [0x62, 0xF1, 0xED, 0x4C, 0xC6, 0x08, 0x01])) (.pageFault 4) = true := by decide

/-- The run ends at the end address (section 9), and 62H in 32-bit mode is F-21. -/
theorem test_ends :
    refuses (step (start.load [])) .programEnded = true ∧
    refuses (step (State.load { start with launch := { start.launch with mode64 := false } }
      [0x62, 0xA1, 0xED, 0x40, 0xC6, 0xCB, 0x00])) (.notAdmitted .notInScope) = true := by decide

/-- R162: a program whose second form is SHUFPS does not run its first; in 32-bit mode one that straddles the top of
the address space does not run (R18); a program naming a location with a read side effect does not run (R37). -/
theorem test_refused_before_it_runs :
    refuses (step (start.load [0x66, 0x0F, 0xC6, 0xC9, 0x01, 0x0F, 0xC6, 0xCA, 0x01]))
      (.notAdmitted .noOperandSizePrefix) = true ∧
    refuses (step (State.load { start with pc := 0xFFFFFFFC, launch := { start.launch with mode64 := false } }
      [0xC5, 0xF1, 0xC6, 0xC9, 0x01])) .pcWraps = true ∧
    refuses (step (State.load { start with launch := { start.launch with sideEffects := [(0x200F, 0x2010)] } }
      [0x66, 0x0F, 0xC6, 0xC9, 0x01, 0x66, 0x0F, 0xC6, 0x08, 0x01])) .sideEffectRead = true := by decide

/-- The host's launch of one word: zeros follow it and are no part of the program. -/
theorem test_withFetchWord :
    gives (step (start.withFetchWord 40 0x01C9C6F1C5)) 1 #v[d 1, d 0, 0, 0, 0, 0, 0, 0] 0x1005 = true := by decide

/-! ### Text (95_test_vectors.md section 2.1, R69) -/

theorem test_asm_registers :
    asm true (.vshufpdVex2L256 [] 0 1 (.reg 2) 5) = "vshufpd ymm0, ymm1, ymm2, 5" := by decide +kernel

theorem test_asm_masked_broadcast :
    asm true (.vshufpdEvex512 [] 0 1 false 1 (.mem (.base 3 (.disp8 1))) true 0x55) =
      "vshufpd zmm0" ++ braced "k1" ++ ", zmm1, qword ptr [rbx+8]" ++ braced "1to8" ++ ", 85" := by decide +kernel

/-! ### Witnesses: the hypotheses of each obligation can be met -/

/-- The step or instruction completes. -/
def completes (o : Result) : Bool :=
  match o with
  | .next _ => true
  | .fault _ => false
  | .refused _ => false

theorem next_of_completes {o : Result} (h : completes o = true) : ∃ t, o = .next t := by
  cases o with
  | next t => exact ⟨t, rfl⟩
  | fault f => cases h
  | refused r => cases h

/-- The longest instruction (15 bytes) and the highest registers are among the well-formed ones. -/
theorem witness_DecodeInvertsEncode :
    (Instr.shufpd (List.replicate 11 .opSize) 7 (.reg 7) 0xFF).wf true = true ∧
    (Instr.shufpdRex [.opSize] 15 (.mem (.sib 3 (some 12) 13 (.disp8 0x80))) 0).wf true = true ∧
    (Instr.vshufpdVex2L128 [.seg .fs] 15 15 (.reg 7) 0).wf true = true ∧
    (Instr.vshufpdVex3L256 [.addrSize] 15 15 (.reg 15) 0).wf false = false ∧
    (Instr.vshufpdVex3L256 [.addrSize] 7 7 (.reg 7) 0).wf false = true ∧
    (Instr.vshufpdEvex512 [] 31 7 true 31 (.mem (.disp32 0x80000000)) true 0).wf true = true := by decide

theorem witness_DecodedInstructionIsWellFormed :
    decode false [0x66, 0x0F, 0xC6, 0xCA, 0x01, 0x90] = .ok (.shufpd [.opSize] 1 (.reg 2) 1, [0x90]) := rfl

theorem witness_DecodeConsumesTheLength :
    decode true (List.replicate 11 0x66 ++ [0x0F, 0xC6, 0xCA, 0x01, 0x90]) =
      .ok (.shufpd (List.replicate 11 .opSize) 1 (.reg 2) 1, [0x90]) := rfl

theorem witness_LockAndRepeatPrefixesAreRefused :
    .lock ∈ (takePrefixes [0xF0, 0x66, 0x0F, 0xC6]).1 ∧ .repne ∈ (takePrefixes [0x66, 0xF2, 0x0F, 0xC6]).1 ∧
    .rep ∈ (takePrefixes [0xF3, 0x62]).1 := by decide

theorem witness_OperandSizeOrRexBeforeVexIsRefused :
    ((takePrefixes [0x66, 0xC5, 0xE9]).2 = [0xC5, 0xE9] ∧ .opSize ∈ (takePrefixes [0x66, 0xC5, 0xE9]).1) ∧
    field 0x40 4 4 = 4 ∧ field 0x4F 4 4 = 4 ∧ (takePrefixes [0x2E, 0x4F, 0x62, 0xF1]).2 = [0x4F, 0x62, 0xF1] := by
  decide

theorem witness_EvexBroadcastOfARegisterIsRefused :
    (takePrefixes [0x67, 0x2E, 0x62, 0xF1, 0xED, 0x58, 0xC6, 0xCB, 0x01]).2 =
      [0x62, 0xF1, 0xED, 0x58, 0xC6, 0xCB, 0x01] ∧ bitOf 0x58 4 = true ∧ field 0xCB 6 2 = 3 := by decide

theorem witness_EvexZeroingWithoutAMaskIsRefused :
    (takePrefixes [0x3E, 0x62, 0xF1, 0xED, 0xC8, 0xC6]).2 = [0x62, 0xF1, 0xED, 0xC8, 0xC6] ∧ bitOf 0xC8 7 = true ∧
    field 0xC8 0 3 = 0 := by decide

theorem witness_EvexReservedFieldsAreRefused :
    (takePrefixes [0x67, 0x62, 0xF1, 0x6D, 0x48, 0xC6]).2 = [0x62, 0xF1, 0x6D, 0x48, 0xC6] ∧
    bitOf 0x6D 7 = false ∧ field 0x68 5 2 = 3 ∧ field 0xF9 2 2 ≠ 0 ∧ field 0xF5 2 2 ≠ 0 ∧ bitOf 0xE9 2 = false ∧
    bitOf 0xE1 4 = false ∧ bitOf 0x40 3 = false ∧ bitOf 0xAD 6 = false := by decide

theorem witness_IgnoredWBitsDoNotMatter :
    field 0x48 4 4 = 4 ∧ (0x48 ^^^ 0x08 : Byte) = 0x40 ∧
    decode true ([Prefix.addrSize, .opSize].map Prefix.byte ++ 0x48 :: [0x0F, 0xC6, 0xCA, 0x01]) =
      .ok (.shufpdRex [.addrSize, .opSize] 1 (.reg 2) 1, []) := ⟨by decide, by decide, rfl⟩

theorem witness_NamedRegistersExist :
    decode resetLaunch.mode64 [0x62, 0xA1, 0xED, 0x40, 0xC6, 0xCB, 0x00] =
      .ok (.vshufpdEvex512 [] 17 0 false 18 (.reg 19) false 0, []) ∧
    hasFeatures resetLaunch (.vshufpdEvex512 [] 17 0 false 18 (.reg 19) false 0) = true ∧
    gregsOf (.mem (.sib 3 (some 1) 6 (.disp8 0x10))) = [6, 1] := ⟨rfl, rfl, rfl⟩

theorem witness_ShufSelectsWithinThePair : (1 : Fin 8).val < VecLen.v128.elems ∧ (7 : Fin 8).val < VecLen.v512.elems := by
  decide

/-- The immediates 00H, FFH, 55H, AAH meet the four bit patterns; 55H and 54H differ in pair 0 alone. -/
theorem witness_ShufIdentities :
    (∀ p : Fin 4, (0x00 : Byte).getLsbD (2 * p.val) = false ∧ (0x00 : Byte).getLsbD (2 * p.val + 1) = false) ∧
    (∀ p : Fin 4, (0xFF : Byte).getLsbD (2 * p.val) = true ∧ (0xFF : Byte).getLsbD (2 * p.val + 1) = true) ∧
    (∀ p : Fin 4, (0x55 : Byte).getLsbD (2 * p.val) = true ∧ (0x55 : Byte).getLsbD (2 * p.val + 1) = false) ∧
    (∀ p : Fin 4, (0xAA : Byte).getLsbD (2 * p.val) = false ∧ (0xAA : Byte).getLsbD (2 * p.val + 1) = true) ∧
    (∀ j : Fin 8, j ≠ 0 → j ≠ 1 → (0x54 : Byte).getLsbD j.val = (0x55 : Byte).getLsbD j.val) ∧
    VecLen.v128.elems ≤ VecLen.v256.elems := by decide

theorem witness_MaskWriteFollowsTheMask :
    written start 1 3 ∧ ¬written start 1 4 ∧ written start 0 7 ∧ (3 : Fin 8).val < VecLen.v256.elems := by
  unfold written; decide

theorem witness_OperandReadIsLittleEndian : 7 < 8 ∧ 63 < VecLen.v512.bytes := by decide

theorem witness_MemoryReadsTheLatestWrite : Memory.wf start.mem = true ∧ start.mem ≠ [] := by decide

/-- 66H and 67H without an override; two equal overrides; two different ones. -/
theorem witness_OperandSegment :
    (∀ σ, .seg σ ∉ [Prefix.opSize, .addrSize]) ∧
    (.seg .fs ∈ [Prefix.addrSize, .seg .fs, .seg .fs] ∧
      ∀ τ, .seg τ ∈ [Prefix.addrSize, .seg .fs, .seg .fs] → τ = Segment.fs) ∧
    .seg .gs ∈ [Prefix.seg .fs, .seg .gs] := by
  refine ⟨fun σ h => ?_, ⟨by decide, fun τ h => ?_⟩, by decide⟩
  · cases σ <;> exact absurd h (by decide)
  · cases τ <;> first | rfl | exact absurd h (by decide)

/-- A base that the launch supplies, one that 64-bit mode fixes, and one that is not supplied. -/
theorem witness_AddressIsTheSumModuloTheAddressSize :
    segmentBase { start.launch with segBase := { start.launch.segBase with fs := some 0x7000 } }
      (segmentOf [.seg .fs] (.base 0 .none)) = some 0x7000 ∧
    segmentBase start.launch (segmentOf [.opSize] (.base 0 .none)) = some 0 ∧
    segmentBase start.launch (segmentOf [.seg .fs] (.base 0 .none)) = none := by decide

/-- The value of a full-width operand at `MEM` for the witnesses. -/
def memVec : Vec := Memory.readVec start.mem .v512 0x2000

/-- The value of the broadcast operand at `MEM + 8` for the witnesses. -/
def bcVec : Vec := #v[m 1, m 1, m 1, m 1, m 1, m 1, m 1, m 1]

theorem witness_LegacyFormsComplete :
    (ready start (.shufpd [.opSize] 1 (.mem (.base 0 .none)) 2) ∧
      fits start (.shufpd [.opSize] 1 (.mem (.base 0 .none)) 2) ∧
      sourceIs start (.shufpd [.opSize] 1 (.mem (.base 0 .none)) 2) memVec) ∧
    (ready start (.shufpdRex [.opSize] 8 (.reg 9) 3) ∧ fits start (.shufpdRex [.opSize] 8 (.reg 9) 3) ∧
      sourceIs start (.shufpdRex [.opSize] 8 (.reg 9) 3) (start.vreg 9)) := by
  refine ⟨⟨by unfold ready; decide, by unfold fits; decide, (sourceIs_mem rfl).2 ⟨0x2000, ?_⟩⟩,
    by unfold ready; decide, by unfold fits; decide, (sourceIs_reg rfl).2 fun _ _ => rfl⟩
  unfold readable; decide

theorem witness_Vex128FormsComplete :
    (ready start (.vshufpdVex2L128 [] 1 2 (.mem (.base 0 (.disp8 8))) 3) ∧
      fits start (.vshufpdVex2L128 [] 1 2 (.mem (.base 0 (.disp8 8))) 3) ∧
      sourceIs start (.vshufpdVex2L128 [] 1 2 (.mem (.base 0 (.disp8 8))) 3)
        (Memory.readVec start.mem .v128 0x2008)) ∧
    (ready start (.vshufpdVex3L128 [] 1 2 (.reg 10) 3) ∧ fits start (.vshufpdVex3L128 [] 1 2 (.reg 10) 3) ∧
      sourceIs start (.vshufpdVex3L128 [] 1 2 (.reg 10) 3) (start.vreg 10)) := by
  refine ⟨⟨by unfold ready; decide, by unfold fits; decide, (sourceIs_mem rfl).2 ⟨0x2008, ?_⟩⟩,
    by unfold ready; decide, by unfold fits; decide, (sourceIs_reg rfl).2 fun _ _ => rfl⟩
  unfold readable; decide

theorem witness_Vex256FormsComplete :
    (ready start (.vshufpdVex2L256 [] 1 2 (.mem (.base 0 .none)) 3) ∧
      fits start (.vshufpdVex2L256 [] 1 2 (.mem (.base 0 .none)) 3) ∧
      sourceIs start (.vshufpdVex2L256 [] 1 2 (.mem (.base 0 .none)) 3) memVec) ∧
    (ready startU (.vshufpdVex3L256 [] 1 2 (.reg 10) 3) ∧ fits startU (.vshufpdVex3L256 [] 1 2 (.reg 10) 3) ∧
      sourceIs startU (.vshufpdVex3L256 [] 1 2 (.reg 10) 3) (startU.vreg 10)) := by
  refine ⟨⟨by unfold ready; decide, by unfold fits; decide, (sourceIs_mem rfl).2 ⟨0x2000, ?_⟩⟩,
    by unfold ready; decide, by unfold fits; decide, (sourceIs_reg rfl).2 fun _ _ => rfl⟩
  unfold readable; decide

/-- With a broadcast operand and with a register. -/
theorem witness_Evex128FormCompletes :
    (evexOk 2 true (.mem (.base 0 (.disp8 1))) true = true ∧
      ready start (.vshufpdEvex128 [] 1 2 true 2 (.mem (.base 0 (.disp8 1))) true 3) ∧
      fits start (.vshufpdEvex128 [] 1 2 true 2 (.mem (.base 0 (.disp8 1))) true 3) ∧
      sourceIs start (.vshufpdEvex128 [] 1 2 true 2 (.mem (.base 0 (.disp8 1))) true 3) bcVec) ∧
    written start 2 1 ∧ ¬written start 2 0 := by
  refine ⟨⟨by decide, by unfold ready; decide, by unfold fits; decide, (sourceIs_mem rfl).2 ⟨0x2008, ?_⟩⟩, ?_⟩
  · unfold readable; decide
  · unfold written; decide

theorem witness_Evex256FormCompletes :
    (evexOk 3 false (.reg 3) false = true ∧ ready start (.vshufpdEvex256 [] 1 3 false 2 (.reg 3) false 6) ∧
      fits start (.vshufpdEvex256 [] 1 3 false 2 (.reg 3) false 6) ∧
      sourceIs start (.vshufpdEvex256 [] 1 3 false 2 (.reg 3) false 6) (start.vreg 3)) ∧
    written start 3 2 ∧ ¬written start 3 3 := by
  refine ⟨⟨by decide, by unfold ready; decide, by unfold fits; decide, (sourceIs_reg rfl).2 fun _ _ => rfl⟩, ?_⟩
  unfold written; decide

theorem witness_Evex512FormCompletes :
    (evexOk 5 false (.mem (.base 0 .none)) false = true ∧
      ready start (.vshufpdEvex512 [] 1 5 false 2 (.mem (.base 0 .none)) false 6) ∧
      fits start (.vshufpdEvex512 [] 1 5 false 2 (.mem (.base 0 .none)) false 6) ∧
      sourceIs start (.vshufpdEvex512 [] 1 5 false 2 (.mem (.base 0 .none)) false 6) memVec) ∧
    written start 5 7 ∧ ¬written start 5 6 := by
  refine ⟨⟨by decide, by unfold ready; decide, by unfold fits; decide, (sourceIs_mem rfl).2 ⟨0x2000, ?_⟩⟩, ?_⟩
  · unfold readable; decide
  · unfold written; decide

theorem witness_IgnoredImmediateBitsHaveNoEffect :
    (∀ j, j < 2 → (0xFD : Byte).getLsbD j = (0x01 : Byte).getLsbD j) ∧
    (∀ j, j < 4 → (0xF5 : Byte).getLsbD j = (0x05 : Byte).getLsbD j) := by decide

theorem witness_EvexZeroesAboveTheVectorLength :
    (Instr.vshufpdEvex256 [] 1 3 false 2 (.reg 3) false 6).family = .evex ∧
    (∃ t, exec (.vshufpdEvex256 [] 1 3 false 2 (.reg 3) false 6) start = .next t) ∧
    VecLen.v256.elems ≤ (4 : Fin 8).val := ⟨rfl, next_of_completes (by decide), by decide⟩

/-- Merging with an element masked off, and no writemask and zeroing with a destination that is no source. -/
theorem witness_OnlyMergingReadsTheDestination :
    (∃ t, exec (evexInstr .v512 [] 1 1 false 2 (.reg 3) false 6) start = .next t) ∧ (1 : BitVec 3) ≠ 0 ∧
    (start.kreg 1).getLsbD 4 = false ∧ (∃ t, exec (evexInstr .v128 [] 1 0 false 2 (.reg 3) false 6) start = .next t) ∧
    (∃ t, exec (evexInstr .v256 [] 1 1 true 2 (.reg 3) false 6) start = .next t) ∧ (1 : VReg) ≠ 2 ∧
    Rm.reg 3 ≠ .reg 1 :=
  ⟨next_of_completes (by decide), by decide, by decide, next_of_completes (by decide),
    next_of_completes (by decide), by decide, by decide⟩

theorem witness_OpmaskBitsAboveTheElementsAreNotRead :
    (∀ (r : BitVec 3) (j : Nat), j < (Instr.vshufpdEvex128 [] 1 2 true 2 (.reg 3) false 3).vl.elems →
      ((#v[0, 0x3, 0x2, 0x1, 0, 0x1, 0, 0] : Vector Word 8)[r.toNat]'r.isLt).getLsbD j = (start.kreg r).getLsbD j) ∧
    ∃ t, exec (.vshufpdEvex128 [] 1 2 true 2 (.reg 3) false 3) start = .next t := by
  refine ⟨?_, next_of_completes (by decide)⟩
  decide

/-- A machine with `MAX_VL = 256` and no AVX-512, nothing above its registers. -/
def start256 : State :=
  { State.reset with
    v := State.reset.v.set 2 #v[a 0, a 1, a 2, a 3, 0, 0, 0, 0]
    launch := { start.launch with maxVl := .v256, hasAvx512f := false, hasAvx512vl := false } }

theorem start256_inv : Inv start256 := by
  unfold Safety.Inv; decide

theorem witness_Vex256UpperBitsFollowTheParameter :
    (∃ t, exec (.vshufpdVex2L256 [] 1 2 (.reg 3) 5) startU = .next t) ∧
    (∃ t, exec (.vshufpdVex3L256 [] 1 2 (.reg 3) 5) start = .next t) ∧
    Inv start256 ∧ start256.launch.maxVl = .v256 ∧
    (∃ t, exec (.vshufpdVex2L256 [] 1 2 (.reg 3) 5)
      { start256 with launch := { start256.launch with vex256Upper := .unmodified } } = .next t) ∧
    (∃ t, exec (.vshufpdVex2L256 [] 1 2 (.reg 3) 5)
      { start256 with launch := { start256.launch with vex256Upper := .zeroed } } = .next t) :=
  ⟨next_of_completes (by decide), next_of_completes (by decide), start256_inv, rfl, next_of_completes (by decide),
    next_of_completes (by decide)⟩

theorem witness_LegacyKeepsWhatVex128Zeroes :
    (∃ t, exec (.shufpd [.opSize] 1 (.reg 3) 1) start = .next t) ∧
    (∃ t, exec (.vshufpdVex3L128 [] 1 2 (.reg 3) 1) start = .next t) ∧ 2 ≤ (2 : Fin 8).val :=
  ⟨next_of_completes (by decide), next_of_completes (by decide), by decide⟩

/-- A state in which `V[4]` holds the sixteen bytes at `MEM`. -/
def startAgree : State := start.setVreg 4 memVec

theorem witness_RegisterAndMemoryOperandsAgree :
    (∃ t, exec (evexInstr .v128 [] 1 2 true 2 (.reg 4) false 3) startAgree = .next t) ∧
    (∃ t, exec (evexInstr .v128 [] 1 2 true 2 (.mem (.base 0 .none)) false 3) startAgree = .next t) ∧
    effectiveAddress startAgree [] (evexInstr .v128 [] 1 2 true 2 (.mem (.base 0 .none)) false 3).len 16
      (.base 0 .none) = some 0x2000 ∧
    ∀ j : Fin 8, j.val < 2 → (startAgree.vreg 4)[j] = Memory.read64 startAgree.mem (0x2000 + 8 * j.val) :=
  ⟨next_of_completes (by decide), next_of_completes (by decide), by decide, by decide⟩

theorem witness_EncodingsOfOneOperationAgree :
    (∃ t, exec (.vshufpdVex2L128 [] 1 2 (.reg 3) 2) start = .next t) ∧
    (∃ t, exec (.vshufpdVex3L128 [] 1 2 (.reg 3) 2) start = .next t) ∧
    (∃ t, exec (.vshufpdEvex128 [] 1 0 false 2 (.reg 3) false 2) start = .next t) ∧
    (∃ t, exec (.vshufpdVex2L256 [] 1 2 (.reg 3) 2) start = .next t) ∧
    (∃ t, exec (.vshufpdVex3L256 [] 1 2 (.reg 3) 2) start = .next t) ∧
    (∃ t, exec (.vshufpdEvex256 [] 1 0 false 2 (.reg 3) false 2) start = .next t) :=
  ⟨next_of_completes (by decide), next_of_completes (by decide), next_of_completes (by decide),
    next_of_completes (by decide), next_of_completes (by decide), next_of_completes (by decide)⟩

theorem witness_IntrinsicsGiveTheNewDestination :
    (1 : BitVec 3) ≠ 0 ∧
    ∀ i ∈ [Instr.shufpd [.opSize] 1 (.reg 3) 2, .vshufpdVex2L256 [] 1 2 (.reg 3) 2,
      .vshufpdEvex512 [] 1 0 false 2 (.reg 3) false 2, .vshufpdEvex128 [] 1 1 false 2 (.reg 3) false 2,
      .vshufpdEvex128 [] 1 1 true 2 (.reg 3) false 2, .vshufpdEvex256 [] 1 1 false 2 (.reg 3) false 2,
      .vshufpdEvex256 [] 1 1 true 2 (.reg 3) false 2, .vshufpdEvex512 [] 1 1 false 2 (.reg 3) false 2,
      .vshufpdEvex512 [] 1 1 true 2 (.reg 3) false 2], ∃ t, exec i start = .next t := by
  refine ⟨by decide, fun i h => next_of_completes ?_⟩
  revert i; decide

theorem witness_GeneralRegistersServeAddressesOnly :
    (Instr.vshufpdVex2L128 [] 1 2 (.reg 3) 1).src2 = .reg 3 ∧
    ∃ t, exec (.vshufpdVex2L128 [] 1 2 (.reg 3) 1) start = .next t := ⟨rfl, next_of_completes (by decide)⟩

theorem witness_MissingFeatureRaisesInvalidOpcode :
    hasFeatures { start.launch with hasSse2 := false } (.shufpd [.opSize] 1 (.reg 2) 1) = false ∧
    hasFeatures { start.launch with hasAvx := false } (.vshufpdVex3L256 [] 1 2 (.reg 3) 1) = false ∧
    hasFeatures { start.launch with hasAvx512vl := false } (.vshufpdEvex128 [] 1 0 false 2 (.reg 3) false 1) = false := by
  decide

theorem witness_DisabledFormsFault :
    hasFeatures start.launch (.vshufpdEvex512 [] 1 0 false 2 (.reg 3) false 1) = true ∧
    VecLen.v512.bits ≤ start.launch.maxVl.bits ∧
    enabled { start.launch with enAvx512 := false } (.vshufpdEvex512 [] 1 0 false 2 (.reg 3) false 1) = false ∧
    enabled { start.launch with ts := true } (.vshufpdEvex512 [] 1 0 false 2 (.reg 3) false 1) = true ∧
    hasFeatures { start.launch with enAvx512 := false, ts := true }
      (.vshufpdEvex512 [] 1 0 false 2 (.reg 3) false 1) = true := by decide

theorem witness_MisalignedLegacyOperandRaisesGp :
    ready start (.shufpd [.opSize] 1 (.mem (.base 0 (.disp8 8))) 1) ∧
    effectiveAddress start [.opSize] (Instr.shufpd [.opSize] 1 (.mem (.base 0 (.disp8 8))) 1).len 1
      (.base 0 (.disp8 8)) = some 0x2008 ∧
    (∀ e ∈ start.launch.memFault, entryApplies (segmentOf [.opSize] (.base 0 (.disp8 8))) 0x2008 16 e = true →
      e.cause ≠ .segment) ∧
    (∀ r ∈ start.launch.sideEffects, ¬(0x2008 < r.2 ∧ r.1 < 0x2008 + 16)) ∧ (0x2008 : Word).toNat % 16 ≠ 0 := by
  unfold ready; decide

/-- F-12: the page of `MEM` cannot be read. -/
def startFault : State :=
  { start with launch := { start.launch with memFault := [⟨.touches 0x2000 0x3000, none, .page 4⟩] } }

theorem witness_UnreadableOperandFaultsWhateverTheMask :
    ready startFault (.vshufpdEvex512 [] 1 4 false 2 (.mem (.base 0 .none)) false 1) ∧
    (Instr.vshufpdEvex512 [] 1 4 false 2 (.mem (.base 0 .none)) false 1).src2 = .mem (.base 0 .none) ∧
    effectiveAddress startFault [] (Instr.vshufpdEvex512 [] 1 4 false 2 (.mem (.base 0 .none)) false 1).len
      (dispScale (.vshufpdEvex512 [] 1 4 false 2 (.mem (.base 0 .none)) false 1)) (.base 0 .none) = some 0x2000 ∧
    (∀ r ∈ startFault.launch.sideEffects, ¬(0x2000 < r.2 ∧ r.1 < 0x2000 + 64)) ∧
    ∃ e ∈ startFault.launch.memFault, entryApplies (segmentOf [] (.base 0 .none)) 0x2000 64 e = true := by
  unfold ready; decide

/-- The last byte of the operand lies in a device window; an FS override meets a base that is not supplied. -/
theorem witness_OperandsOutsideTheModelAreRefused :
    (ready start (.vshufpdVex2L128 [.seg .fs] 1 2 (.mem (.base 0 .none)) 1) ∧
      effectiveAddress start [.seg .fs] (Instr.vshufpdVex2L128 [.seg .fs] 1 2 (.mem (.base 0 .none)) 1).len 1
        (.base 0 .none) = none) ∧
    (ready { start with launch := { start.launch with sideEffects := [(0x200F, 0x2010)] } }
        (.vshufpdVex2L128 [] 1 2 (.mem (.base 0 .none)) 1) ∧
      (0x2000 < 0x2010 ∧ 0x200F < 0x2000 + operandBytes (.vshufpdVex2L128 [] 1 2 (.mem (.base 0 .none)) 1))) := by
  unfold ready; decide

/-- `pc + len` is exactly 2^32 in 32-bit mode. -/
def startTop : State := { start with pc := 0xFFFFFFFB, launch := { start.launch with mode64 := false } }

theorem witness_ProgramCounterDoesNotWrap :
    ready startTop (.vshufpdVex2L128 [] 1 2 (.reg 3) 1) ∧
    sourceIs startTop (.vshufpdVex2L128 [] 1 2 (.reg 3) 1) (startTop.vreg 3) ∧
    ¬fits startTop (.vshufpdVex2L128 [] 1 2 (.reg 3) 1) :=
  ⟨by unfold ready; decide, (sourceIs_reg rfl).2 fun _ _ => rfl, by unfold fits; decide⟩

theorem witness_FormsAboveMaxVlDoNotRun :
    VecLen.v128.bits < VecLen.v256.bits ∧
    hasFeatures { start.launch with maxVl := .v128 } (.vshufpdVex2L256 [] 1 2 (.reg 3) 1) = true ∧
    hasFeatures { start.launch with maxVl := .v128, hasAvx := false } (.vshufpdVex2L256 [] 1 2 (.reg 3) 1) = false := by
  decide

/-- Program P1 of section 9: two forms, then the end. -/
def p1 : State := start.load [0x66, 0x0F, 0xC6, 0xC9, 0x01, 0x66, 0x0F, 0xC6, 0xC9, 0x01]

/-- A register form has its place in a program that it fits in. -/
theorem formIs_of_reg {s : State} {i : Instr} {r : VReg} {rest : List Byte}
    (hd : decode s.launch.mode64 (fetchBytes s) = .ok (i, rest)) (he : s.pc.toNat + i.len ≤ s.progEnd.toNat)
    (hf : s.pc.toNat + i.len < 2 ^ addrBits s.launch) (hr : i.src2 = .reg r) : formIs s i :=
  ⟨⟨rest, hd⟩, he, hf, fun m hm => by rw [hr] at hm; cases hm⟩

theorem p1_admitted : admits 2 p1 :=
  ⟨.shufpd [.opSize] 1 (.reg 1) 1, formIs_of_reg rfl (by decide) (by decide) rfl, .shufpd [.opSize] 1 (.reg 1) 1,
    formIs_of_reg rfl (by decide) (by decide) rfl, by decide, by decide, rfl⟩

theorem witness_StepRunsTheDecodedInstruction :
    admits 2 p1 ∧ p1.pc ≠ p1.progEnd ∧
    ∃ rest, decode p1.launch.mode64 (fetchBytes p1) = .ok (.shufpd [.opSize] 1 (.reg 1) 1, rest) :=
  ⟨p1_admitted, by decide, _, rfl⟩

/-- The second form of the program is SHUFPS. -/
def laterBad : State := start.load [0x66, 0x0F, 0xC6, 0xC9, 0x01, 0x0F, 0xC6, 0xCA, 0x01]

theorem witness_ProgramThatIsNotAdmittedIsRefused : ∀ n, ¬admits n laterBad := by
  intro n h
  cases n with
  | zero => exact absurd h.1 (by decide)
  | succ n =>
    obtain ⟨i, ⟨⟨rest, hd⟩, -⟩, ha⟩ := h
    have hi : Except.ok (Instr.shufpd [.opSize] 1 (.reg 1) 1, _) = Except.ok (i, rest) := Eq.trans (by rfl) hd
    obtain ⟨rfl, -⟩ := Prod.mk.inj (Except.ok.inj hi)
    cases n with
    | zero => exact absurd ha.1 (by decide)
    | succ n =>
      obtain ⟨j, ⟨⟨rest', hd'⟩, -⟩, -⟩ := ha
      have hj : Except.error DecodeRefusal.noOperandSizePrefix = Except.ok (j, rest') := Eq.trans (by rfl) hd'
      cases hj

theorem witness_UnadmittedBytesAreRefused :
    (start.load [0x0F, 0xC6, 0xCA, 0x01]).launch.facilities = false ∧
    launchConsistent (start.load [0x0F, 0xC6, 0xCA, 0x01]).launch = true ∧
    (start.load [0x0F, 0xC6, 0xCA, 0x01]).pc ≠ (start.load [0x0F, 0xC6, 0xCA, 0x01]).progEnd ∧
    decode true (fetchBytes (start.load [0x0F, 0xC6, 0xCA, 0x01])) = .error .noOperandSizePrefix :=
  ⟨rfl, by decide, by decide, rfl⟩

theorem witness_LaunchWithFacilitiesIsRefused :
    (State.mk start.v start.k start.x start.pc start.eflags start.mxcsr start.mem start.progEnd
      { start.launch with facilities := true }).launch.facilities = true := rfl

theorem witness_InconsistentLaunchIsRefused :
    start.launch.facilities = false ∧
    ({ start.launch with maxVl := .v128 } : Config.Launch).hasAvx = true ∧
    ({ start.launch with maxVl := .v256 } : Config.Launch).hasAvx512f = true ∧ VecLen.v256 ≠ .v512 := by decide

theorem witness_RunEndsAtTheEndAddress :
    start.launch.facilities = false ∧ launchConsistent start.launch = true ∧ start.pc = start.progEnd := by decide

theorem witness_StepChangesOneRegisterAndPc :
    ∃ t, step (start.load [0x66, 0x0F, 0xC6, 0xCA, 0x01]) = .next t := next_of_completes (by decide)

theorem witness_InvariantIsKept :
    Inv (start256.load [0xC5, 0xED, 0xC6, 0xCB, 0x05]) ∧
    ∃ t, step (start256.load [0xC5, 0xED, 0xC6, 0xCB, 0x05]) = .next t :=
  ⟨by unfold Safety.Inv; decide, next_of_completes (by decide)⟩

theorem witness_AdmittedProgramsTerminate : admits 2 p1 := p1_admitted

end Sys2Proof.Tests
end

/-! # Proofs: the data functions element by element -/

namespace Sys2Proof

/-- A field of a bit vector is all ones exactly when each of its bits is 1. -/
theorem extractLsb'_eq_allOnes_iff {w lo n : Nat} {v : BitVec w} :
    v.extractLsb' lo n = BitVec.allOnes n ↔ ∀ i : Fin n, v.getLsbD (lo + i) = true := by
  refine ⟨fun h i => ?_, fun h => BitVec.eq_of_getLsbD_eq fun i hi => ?_⟩
  · have hbit : (v.extractLsb' lo n).getLsbD i = (BitVec.allOnes n).getLsbD i := by rw [h]
    simpa using hbit
  · simpa [hi] using h ⟨i, hi⟩

theorem VecLen.bits_eq (vl : VecLen) : vl.bits = 64 * vl.elems := by cases vl <;> rfl

theorem VecLen.two_le_elems (vl : VecLen) : 2 ≤ vl.elems := by cases vl <;> decide

end Sys2Proof

namespace Sys2Proof.Machine

/-- Bit `i` of element `j` is bit `64*j+i` of the register (R5). -/
theorem bitsOf_getLsbD (v : Vec) (j : Fin 8) {i : Nat} (hi : i < 64) :
    (bitsOf v).getLsbD (64 * j.val + i) = v[j].getLsbD i := by
  change (v[7] ++ v[6] ++ v[5] ++ v[4] ++ v[3] ++ v[2] ++ v[1] ++ v[0]).getLsbD _ = _
  match j with
  | 0 | 1 | 2 | 3 | 4 | 5 | 6 | 7 =>
    simp (disch := omega) only [BitVec.getLsbD_append, Fin.getElem_fin, if_pos, if_neg]
    exact congrArg (BitVec.getLsbD _) (by omega)

/-- Element `j` is bits `[64*j+63 : 64*j]` (R5). -/
theorem bitsOf_extractLsb' (v : Vec) (j : Fin 8) : (bitsOf v).extractLsb' (64 * j.val) 64 = v[j] :=
  BitVec.eq_of_getLsbD_eq fun i hi => by simp [hi, bitsOf_getLsbD]

theorem keepUpper_getElem (vl : VecLen) (old t : Vec) (j : Fin 8) :
    (keepUpper vl old t)[j] = if j.val < vl.elems then t[j] else old[j] := by
  match j with
  | 0 | 1 | 2 | 3 | 4 | 5 | 6 | 7 => rfl

theorem maskWrite_getElem (vl : VecLen) (t old : Vec) (mask : Option Word) (z : Bool) (j : Fin 8) :
    (maskWrite vl t old mask z)[j] =
      if j.val < vl.elems then (if maskBit mask j then t[j] else if z then 0 else old[j]) else 0 := by
  match j with
  | 0 | 1 | 2 | 3 | 4 | 5 | 6 | 7 => rfl

theorem shuf_getElem_of_le {vl : VecLen} {j : Fin 8} (h : vl.elems ≤ j.val) (a b : Vec) (imm : Byte) :
    (shuf vl a b imm)[j] = 0 := by
  cases vl <;>
    match j with
    | 0 | 1 | 2 | 3 | 4 | 5 | 6 | 7 => simp [shuf] at h ⊢

/-- A VEX form keeps or zeroes each element above its vector length. -/
theorem vexUpper_getElem_of_le {vl : VecLen} {j : Fin 8} (h : vl.elems ≤ j.val) (u : Config.Vex256Upper) (old t : Vec) :
    (vexUpper u vl old t)[j] = t[j] ∨ (vexUpper u vl old t)[j] = old[j] := by
  unfold vexUpper
  split
  · exact .inr (by rw [keepUpper_getElem, if_neg (Nat.not_lt.2 h)])
  all_goals exact .inl rfl

/-- The writemask is read only at the elements of the vector length (R15). -/
theorem maskWrite_congr {vl : VecLen} {mask mask' : Option Word} (h : ∀ j < vl.elems, maskBit mask' j = maskBit mask j)
    (t old : Vec) (z : Bool) : maskWrite vl t old mask' z = maskWrite vl t old mask z := by
  refine Vector.ext fun n hn => ?_
  have key : (maskWrite vl t old mask' z)[(⟨n, hn⟩ : Fin 8)] = (maskWrite vl t old mask z)[(⟨n, hn⟩ : Fin 8)] := by
    rw [maskWrite_getElem, maskWrite_getElem]
    by_cases hj : n < vl.elems
    · simp [hj, h n hj]
    · simp [hj]
  exact key

end Sys2Proof.Machine

/-! # Proofs: the views of the registers and the launch parameters -/

namespace Sys2Proof.Proofs

open Sys2Proof.Machine Sys2Proof.Safety

/-- Settles O12, from the position of element `j` in the register. -/
theorem vectorNamesAreViews : Obligations.VectorNamesAreViews := by
  intro s r
  refine ⟨?_, rfl, bitsOf_extractLsb' (s.vreg r)⟩
  refine BitVec.eq_of_getLsbD_eq fun i hi => ?_
  simp [State.xmm, State.ymm, hi]

/-- Settles O45: a field of control bits is all ones when each of its bits is 1. -/
theorem controlWordsGiveTheParameters : Obligations.ControlWordsGiveTheParameters := by
  intro l w
  have avx : w.xcr0.extractLsb' 1 2 = 3 ↔ w.xcr0.getLsbD 1 = true ∧ w.xcr0.getLsbD 2 = true := by
    rw [show (3 : BitVec 2) = BitVec.allOnes 2 from rfl, extractLsb'_eq_allOnes_iff]
    simp [Fin.forall_fin_succ]
  have avx512 : w.xcr0.extractLsb' 5 3 = 7 ↔
      w.xcr0.getLsbD 5 = true ∧ w.xcr0.getLsbD 6 = true ∧ w.xcr0.getLsbD 7 = true := by
    rw [show (7 : BitVec 3) = BitVec.allOnes 3 from rfl, extractLsb'_eq_allOnes_iff]
    simp [Fin.forall_fin_succ]
  refine ⟨?_, ?_, ?_, rfl, rfl, rfl, rfl, rfl⟩
  · simp [withControls, enSseOf]
  · rw [avx]; simp [withControls, enAvxOf, and_assoc]
  · rw [avx512]; simp [withControls, enAvx512Of, and_assoc]

end Sys2Proof.Proofs

/-! # Proofs: one description of all nine forms

Every form passes the gate of its family, reads SRC2, computes the new destination and completes. `runForm` says so
once for all forms; `exec_eq_runForm` ties it to the model's `exec`. -/

namespace Sys2Proof.Safety

open Sys2Proof.Machine

/-- The gate of a form, by its features, its enable and its vector length. -/
def formGate (i : Instr) (s : State) : Option Stop := gate (hasFeatures s.launch i) (enabled s.launch i) i.vl s

/-- The value of the memory operand of `i` at a checked address: full width, or one element broadcast. -/
def operandAt (i : Instr) (m : Memory) (ea : Nat) : Vec :=
  if i.broadcast then broadcast i.vl (Memory.read64 m ea) else Memory.readVec m i.vl ea

/-- SRC2 of a form. -/
def source (i : Instr) (s : State) : Except Stop Vec :=
  match i.src2 with
  | .reg r => .ok (s.vreg r)
  | .mem m =>
    (checkedAddress (i.family == .legacy) s i.pfx i.len (dispScale i) (operandBytes i) m).map (operandAt i s.mem)

/-- The new contents of the destination register, `b` being SRC2. -/
def newDest (i : Instr) (s : State) (b : Vec) : Vec :=
  match i.family with
  | .legacy => keepUpper i.vl (s.vreg i.dest) (shuf i.vl (s.vreg i.src1) b i.imm8)
  | .vex => vexUpper s.launch.vex256Upper i.vl (s.vreg i.dest) (shuf i.vl (s.vreg i.src1) b i.imm8)
  | .evex => maskWrite i.vl (shuf i.vl (s.vreg i.src1) b i.imm8) (s.vreg i.dest) (writemask s i.mask) i.zeroing

/-- What every form does: gate, operand read, completion (R85, R88). -/
def runForm (i : Instr) (s : State) : Result :=
  match formGate i s with
  | some e => e.take
  | none =>
    match source i s with
    | .error e => e.take
    | .ok b => complete s i.len i.dest (newDest i s b)

theorem broadcast_of_not_evex {i : Instr} (h : i.family ≠ .evex) : i.broadcast = false := by
  cases i <;> simp [Instr.family] at h <;> rfl

theorem source_of_reg {i : Instr} {s : State} {r : VReg} (h : i.src2 = .reg r) : source i s = .ok (s.vreg r) := by
  simp [source, h]

theorem source_of_mem {i : Instr} {s : State} {m : MemOperand} (h : i.src2 = .mem m) :
    source i s =
      (checkedAddress (i.family == .legacy) s i.pfx i.len (dispScale i) (operandBytes i) m).map (operandAt i s.mem) := by
  simp [source, h]

/-- Outside the EVEX family the operand is full-width and its displacement is not scaled. -/
theorem src2Full_eq_source {i : Instr} (h : i.family ≠ .evex) (s : State) :
    src2Full (i.family == .legacy) i.vl s i.pfx i.len i.src2 = source i s := by
  cases hrm : i.src2 with
  | reg r => rw [source_of_reg hrm]; rfl
  | mem m =>
    rw [source_of_mem hrm]
    simp only [src2Full, dispScale, operandBytes, broadcast_of_not_evex h, h, if_false, Bool.false_eq_true]
    cases checkedAddress (i.family == .legacy) s i.pfx i.len 1 i.vl.bytes m with
    | error e => rfl
    | ok ea => simp [Except.map, operandAt, broadcast_of_not_evex h]

/-- An EVEX form reads its full-width or its broadcast operand. -/
theorem src2Evex_eq_source {i : Instr} (h : i.family = .evex) (s : State) :
    src2Evex i.vl s i.pfx i.len i.broadcast i.src2 = source i s := by
  cases hrm : i.src2 with
  | reg r => rw [source_of_reg hrm]; rfl
  | mem m =>
    rw [source_of_mem hrm]
    simp only [src2Evex, evexScale, dispScale, operandBytes, h, if_true,
      show (Family.evex == Family.legacy) = false from rfl]
    cases checkedAddress false s i.pfx i.len (if i.broadcast = true then 8 else i.vl.bytes)
      (if i.broadcast = true then 8 else i.vl.bytes) m with
    | error e => rfl
    | ok ea => cases hb : i.broadcast <;> simp [Except.map, operandAt, hb]

/-- The features of an EVEX row as the gate and as `hasFeatures` ask for them (R66). -/
theorem hasEvex_eq (l : Config.Launch) (vl : VecLen) :
    hasEvex l vl = (l.hasAvx512f && (l.hasAvx512vl || vl == .v512)) := by
  cases vl
  · simp [hasEvex, show (VecLen.v128 == VecLen.v512) = false from rfl]
  · simp [hasEvex, show (VecLen.v256 == VecLen.v512) = false from rfl]
  · simp [hasEvex]

theorem exec_of_legacy {i : Instr} (h : i.family = .legacy) (s : State) :
    exec i s = legacyShuffle i.len i.pfx i.dest i.src2 i.imm8 s := by
  cases i <;> simp [Instr.family] at h <;> rfl

theorem legacyShuffle_eq_runForm {i : Instr} (h : i.family = .legacy) (s : State) :
    legacyShuffle i.len i.pfx i.dest i.src2 i.imm8 s = runForm i s := by
  have hvl : i.vl = .v128 := by cases i <;> simp [Instr.family] at h <;> rfl
  have hsrc1 : i.src1 = i.dest := by cases i <;> simp [Instr.family] at h <;> rfl
  have hsource := src2Full_eq_source (show i.family ≠ .evex by simp [h]) s
  simp only [h, hvl, show (Family.legacy == Family.legacy) = true from rfl] at hsource
  simp only [legacyShuffle, legacyGate, runForm, formGate, newDest, hasFeatures, enabled, h, hvl, hsrc1, hsource]
    <;> rfl

theorem exec_of_vex {i : Instr} (h : i.family = .vex) (s : State) :
    exec i s = vexShuffle i.vl i.len i.pfx i.dest i.src1 i.src2 i.imm8 s := by
  cases i <;> simp [Instr.family] at h <;> rfl

theorem vexShuffle_eq_runForm {i : Instr} (h : i.family = .vex) (s : State) :
    vexShuffle i.vl i.len i.pfx i.dest i.src1 i.src2 i.imm8 s = runForm i s := by
  have hsource := src2Full_eq_source (show i.family ≠ .evex by simp [h]) s
  simp only [h, show (Family.vex == Family.legacy) = false from rfl] at hsource
  simp only [vexShuffle, vexGate, runForm, formGate, newDest, hasFeatures, enabled, h, hsource]
    <;> rfl

theorem exec_of_evex {i : Instr} (h : i.family = .evex) (s : State) :
    exec i s = evexShuffle i.vl i.len i.pfx i.dest i.mask i.zeroing i.src1 i.src2 i.broadcast i.imm8 s := by
  cases i <;> simp [Instr.family] at h <;> rfl

theorem evexShuffle_eq_runForm {i : Instr} (h : i.family = .evex) (s : State) :
    evexShuffle i.vl i.len i.pfx i.dest i.mask i.zeroing i.src1 i.src2 i.broadcast i.imm8 s = runForm i s := by
  simp only [evexShuffle, evexGate, runForm, formGate, newDest, hasFeatures, enabled, h, hasEvex_eq,
    src2Evex_eq_source h]
    <;> rfl

/-- The meaning of every instruction is the one description. -/
theorem exec_eq_runForm (i : Instr) (s : State) : exec i s = runForm i s := by
  cases h : i.family with
  | legacy => rw [exec_of_legacy h, legacyShuffle_eq_runForm h]
  | vex => rw [exec_of_vex h, vexShuffle_eq_runForm h]
  | evex => rw [exec_of_evex h, evexShuffle_eq_runForm h]

/-! ### What `exec` answers, case by case -/

theorem exec_of_gate {i : Instr} {s : State} {e : Stop} (h : formGate i s = some e) : exec i s = e.take := by
  rw [exec_eq_runForm, runForm, h]

theorem exec_of_source_error {i : Instr} {s : State} {e : Stop} (hg : formGate i s = none)
    (hs : source i s = .error e) : exec i s = e.take := by
  rw [exec_eq_runForm, runForm, hg, hs]

theorem exec_of_source_ok {i : Instr} {s : State} {b : Vec} (hg : formGate i s = none) (hs : source i s = .ok b) :
    exec i s = complete s i.len i.dest (newDest i s b) := by
  rw [exec_eq_runForm, runForm, hg, hs]

theorem formGate_none {i : Instr} {s : State} : formGate i s = none ↔ ready s i := gate_none

/-- All an instruction does when it completes. -/
theorem exec_next {i : Instr} {s t : State} :
    exec i s = .next t ↔ ready s i ∧ fits s i ∧
      ∃ b, source i s = .ok b ∧ t = (s.setVreg i.dest (newDest i s b)).advance i.len := by
  rw [← formGate_none]
  cases hg : formGate i s with
  | some e => simp [exec_of_gate hg, take_ne_next]
  | none =>
    cases hs : source i s with
    | error e => simp [exec_of_source_error hg hs, take_ne_next]
    | ok b => simp [exec_of_source_ok hg hs, complete_next, fits]

/-! ### The gate (R16, R130, R131) -/

theorem formGate_of_missing_feature {i : Instr} {s : State} (h : hasFeatures s.launch i = false) :
    formGate i s = some (.fault .invalidOpcode) := by
  simp [formGate, gate, h]

theorem formGate_of_length_above {i : Instr} {s : State} (hf : hasFeatures s.launch i = true)
    (h : s.launch.maxVl.bits < i.vl.bits) : formGate i s = some (.refuse .lengthAboveMaxVl) := by
  simp [formGate, gate, hf, h]

/-! ### The operand read of an operand that can be read (R34, R35, R37) -/

theorem platformFault_none {l : Config.Launch} {σ : Segment} {ea n : Nat}
    (h : ∀ e ∈ l.memFault, entryApplies σ ea n e = false) (p : Config.FaultCause → Bool) :
    platformFault l σ ea n p = none := by
  rw [platformFault, List.find?_eq_none.2 fun e he => by simp [h e he]]
  rfl

theorem operandFault_none {al : Bool} {l : Config.Launch} {σ : Segment} {ea n : Nat}
    (h : ∀ e ∈ l.memFault, entryApplies σ ea n e = false) (ha : al = true → ea % 16 = 0) :
    operandFault al l σ ea n = none := by
  have hm : misaligned al ea = false := by
    cases al with
    | false => simp [misaligned]
    | true => simp [misaligned, ha rfl]
  simp [operandFault, hm, memFault, platformFault_none h]

theorem operandStop_of_readable {al : Bool} {l : Config.Launch} {σ : Segment} {ea n : Nat} (h : readable l σ ea n)
    (ha : al = true → ea % 16 = 0) : operandStop al l σ ea n = none := by
  obtain ⟨hfault, hside, hfit⟩ := h
  exact operandStop_none.2 ⟨touchesSideEffect_false.2 hside, operandFault_none hfault ha, hfit⟩

/-- An operand that claims speak of as readable is read. -/
theorem source_of_sourceIs {i : Instr} {s : State} {b : Vec} (h : sourceIs s i b) : ∃ b', source i s = .ok b' := by
  cases hrm : i.src2 with
  | reg r => exact ⟨_, source_of_reg hrm⟩
  | mem m =>
    obtain ⟨ea, haddr, hread, halign, -⟩ := (sourceIs_mem hrm).1 h
    have hcheck := checkedAddress_ok.2 ⟨ea, haddr, rfl,
      operandStop_of_readable hread fun hl : (i.family == .legacy) = true => halign (by simpa using hl)⟩
    exact ⟨operandAt i s.mem ea.toNat, by rw [source_of_mem hrm, hcheck]; rfl⟩

theorem complete_of_not_fits {i : Instr} {s : State} (h : ¬fits s i) (d : VReg) (val : Vec) :
    complete s i.len d val = .refused .pcWraps := if_neg h

/-! ### States that differ in what a form does not read -/

/-- SRC2 depends on the vector registers, the general registers, `pc`, memory and the launch only. -/
theorem source_congr {i : Instr} {s t : State} (hv : t.v = s.v) (hx : t.x = s.x) (hp : t.pc = s.pc)
    (hm : t.mem = s.mem) (hl : t.launch = s.launch) : source i t = source i s := by
  cases s; cases t; simp only at *; subst hv hx hp hm hl; rfl

/-- A register source depends on the vector registers only. -/
theorem source_reg_congr {i : Instr} {s t : State} {r : VReg} (h : i.src2 = .reg r) (hv : t.v = s.v) :
    source i t = source i s := by
  simp only [source_of_reg h, State.vreg, hv]

/-- The new destination depends on the vector registers, the launch and the writemask only. -/
theorem newDest_congr {i : Instr} {s t : State} (hv : t.v = s.v) (hk : t.k = s.k) (hl : t.launch = s.launch) (b : Vec) :
    newDest i t b = newDest i s b := by
  cases s; cases t; simp only at *; subst hv hk hl; rfl

theorem mapNext_take (f : State → State) (e : Stop) : mapNext f e.take = e.take := by cases e <;> rfl

/-- A change `f` of what a form does not read, and which passes through the writes of a form, passes through the
form. -/
theorem exec_comm {i : Instr} {s : State} (f : State → State) (hp : (f s).pc = s.pc) (hl : (f s).launch = s.launch)
    (hs : source i (f s) = source i s) (hd : ∀ b, newDest i (f s) b = newDest i s b)
    (hf : ∀ val, f ((s.setVreg i.dest val).advance i.len) = ((f s).setVreg i.dest val).advance i.len) :
    exec i (f s) = mapNext f (exec i s) := by
  have hg : formGate i (f s) = formGate i s := by simp only [formGate, gate, hl]
  cases hgate : formGate i s with
  | some e => rw [exec_of_gate (hg.trans hgate), exec_of_gate hgate, mapNext_take]
  | none =>
    cases hsrc : source i s with
    | error e =>
      rw [exec_of_source_error (hg.trans hgate) (hs.trans hsrc), exec_of_source_error hgate hsrc, mapNext_take]
    | ok b =>
      rw [exec_of_source_ok (hg.trans hgate) (hs.trans hsrc), exec_of_source_ok hgate hsrc, hd]
      simp only [complete, hp, hl]
      split
      · simp only [mapNext, hf]
      · rfl

/-- The writemask of a form is read only at its elements. -/
theorem maskBit_writemask_congr (s t : State) {k : BitVec 3} {n : Nat}
    (h : ∀ j < n, (t.kreg k).getLsbD j = (s.kreg k).getLsbD j) :
    ∀ j < n, maskBit (writemask t k) j = maskBit (writemask s k) j := by
  intro j hj
  unfold writemask
  split
  · rfl
  · exact h j hj

end Sys2Proof.Safety

/-! # Proofs: what no form reads or writes, and when a form does not run -/

namespace Sys2Proof.Proofs

open Sys2Proof.Machine Sys2Proof.Safety

/-- Settles O29: a form reads its writemask only below its number of elements. -/
theorem opmaskBitsAboveTheElementsAreNotRead : Obligations.OpmaskBitsAboveTheElementsAreNotRead := by
  intro s i k' hk
  refine ⟨exec_comm (fun t => { t with k := k' }) rfl rfl (source_congr rfl rfl rfl rfl rfl) (fun b => ?_)
    fun _ => rfl, fun t ht => ?_⟩
  · unfold newDest
    split
    · rfl
    · rfl
    · exact maskWrite_congr (maskBit_writemask_congr s { s with k := k' } (hk i.mask)) _ _ _
  · obtain ⟨-, val, rfl⟩ := exec_next_shape ht
    rfl

/-- Settles O35. -/
theorem flagsAndMxcsrAreNeitherReadNorWritten : Obligations.FlagsAndMxcsrAreNeitherReadNorWritten := by
  intro s i flags csr
  exact exec_comm (fun t => { t with eflags := flags, mxcsr := csr }) rfl rfl (source_congr rfl rfl rfl rfl rfl)
    (newDest_congr rfl rfl rfl) fun _ => rfl

/-- Settles O36: only the address of a memory operand reads a general register. -/
theorem generalRegistersServeAddressesOnly : Obligations.GeneralRegistersServeAddressesOnly := by
  intro s i
  refine ⟨fun r x' hr => ?_, fun t ht => ?_⟩
  · exact exec_comm (fun t => { t with x := x' }) rfl rfl (source_reg_congr hr rfl) (newDest_congr rfl rfl rfl)
      fun _ => rfl
  · obtain ⟨-, val, rfl⟩ := exec_next_shape ht
    rfl

/-- Settles O42: gate and operand read are passed, so the completion decides. -/
theorem programCounterDoesNotWrap : Obligations.ProgramCounterDoesNotWrap := by
  intro s i b hready hsource hfits
  obtain ⟨b', hb'⟩ := source_of_sourceIs hsource
  rw [exec_of_source_ok (formGate_none.2 hready) hb', complete_of_not_fits hfits]

/-- Settles O43, from the order of the gate. -/
theorem formsAboveMaxVlDoNotRun : Obligations.FormsAboveMaxVlDoNotRun := fun _ _ hlen =>
  ⟨fun hf => exec_of_gate (formGate_of_length_above hf hlen), fun hf => exec_of_gate (formGate_of_missing_feature hf)⟩

end Sys2Proof.Proofs

/-! # Proofs: what the decoder answers

One inversion lemma per decoding function: the bytes it consumed, the checks they passed, and the instruction. From
these, a decoded instruction is well-formed (R72), and the registers it names exist (R11, R17). -/

namespace Sys2Proof

/-! ### Register numbers (R59) -/

theorem gregOf_lt (e : Bool) (low : BitVec 3) : (gregOf e low).toNat < 16 := BitVec.isLt _

theorem gregOf_false_lt (low : BitVec 3) : (gregOf false low).toNat < 8 := by revert low; decide

theorem gLow_gregOf (e : Bool) (low : BitVec 3) : gLow (gregOf e low) = low := by revert e low; decide

theorem vregOf_false_lt (e : Bool) (low : BitVec 3) : (vregOf false e low).toNat < 16 := by revert e low; decide

theorem vregOf_false_false_lt (low : BitVec 3) : (vregOf false false low).toNat < 8 := by revert low; decide

theorem vregOfVvvv_false_lt (vvvv : BitVec 4) : (vregOfVvvv false vvvv).toNat < 16 := by revert vvvv; decide

theorem vregOfVvvv_false_lt_eight {vvvv : BitVec 4} (h : vvvv.getLsbD 3 = false) :
    (vregOfVvvv false vvvv).toNat < 8 := by revert vvvv; decide

section mode

variable {mode64 : Bool}

theorem gregOf_lt_vexRegs {e : Bool} (he : mode64 = false → e = false) (low : BitVec 3) :
    (gregOf e low).toNat < vexRegs mode64 := by
  cases mode64 with
  | true => exact gregOf_lt e low
  | false => rw [he rfl]; exact gregOf_false_lt low

theorem vregOf_lt_vexRegs {e : Bool} (he : mode64 = false → e = false) (low : BitVec 3) :
    (vregOf false e low).toNat < vexRegs mode64 := by
  cases mode64 with
  | true => exact vregOf_false_lt e low
  | false => rw [he rfl]; exact vregOf_false_false_lt low

theorem vregOf_lt_evexRegs {hi e : Bool} (hhi : mode64 = false → hi = false) (he : mode64 = false → e = false)
    (low : BitVec 3) : (vregOf hi e low).toNat < evexRegs mode64 := by
  cases mode64 with
  | true => exact BitVec.isLt _
  | false => rw [hhi rfl, he rfl]; exact vregOf_false_false_lt low

theorem vregOfVvvv_lt_vexRegs {vvvv : BitVec 4} (h : mode64 = false → vvvv.getLsbD 3 = false) :
    (vregOfVvvv false vvvv).toNat < vexRegs mode64 := by
  cases mode64 with
  | true => exact vregOfVvvv_false_lt vvvv
  | false => exact vregOfVvvv_false_lt_eight (h rfl)

theorem vregOfVvvv_lt_evexRegs {hi : Bool} {vvvv : BitVec 4} (hhi : mode64 = false → hi = false)
    (h : mode64 = false → vvvv.getLsbD 3 = false) : (vregOfVvvv hi vvvv).toNat < evexRegs mode64 := by
  cases mode64 with
  | true => exact BitVec.isLt _
  | false => rw [hhi rfl]; exact vregOfVvvv_false_lt_eight (h rfl)

end mode

/-- The top bit of an inverted `vvvv` field is 0 where its bit in the byte is 1. -/
theorem not_field_getLsbD_three {p : Byte} {lo : Nat} (h : bitOf p (lo + 3) = true) :
    (~~~ field p lo 4).getLsbD 3 = false := by
  simpa [field, bitOf] using h

theorem field_eq_three {p : Byte} {lo : Nat} (h : field p lo 2 = 3#2) :
    bitOf p lo = true ∧ bitOf p (lo + 1) = true := by
  have hbits := extractLsb'_eq_allOnes_iff.1 (show p.extractLsb' lo 2 = BitVec.allOnes 2 from h)
  exact ⟨hbits 0, hbits 1⟩

/-! ### The operands -/

/-- No displacement is read only for `mod = 00`. -/
theorem takeDisp_none {mod : BitVec 2} {bs rest : List Byte} (h : takeDisp mod bs = .ok (.none, rest)) : mod = 0#2 := by
  unfold takeDisp at h
  split at h
  · rfl
  · split at h <;> simp at h
  · split at h <;> simp at h

theorem indexOk_indexOf {x : Bool} {g : Nat} (hx : ∀ low, (gregOf x low).toNat < g) (low : BitVec 3) :
    indexOk g (indexOf x low) = true := by
  unfold indexOf
  split
  · rfl
  · next h => simp [indexOk, hx low, h]

/-- A base register has a displacement where its low bits and `mod = 00` would say something else. -/
theorem baseOk_takeDisp {mod : BitVec 2} {b : Bool} {low : BitVec 3} {g : Nat} {disp : Disp} {bs rest : List Byte}
    (hb : ∀ low, (gregOf b low).toNat < g) (hd : takeDisp mod bs = .ok (disp, rest)) (hne : ¬(mod = 0#2 ∧ low = 5#3)) :
    baseOk g (gregOf b low) disp = true := by
  have hdisp : low = 5#3 → disp ≠ .none := by
    rintro hlow rfl
    exact hne ⟨takeDisp_none hd, hlow⟩
  simpa [baseOk, hb low, gLow_gregOf] using not_or_of_imp hdisp

theorem takeSib_wf {mod : BitVec 2} {x b : Bool} {g : Nat} {bs rest : List Byte} {m : MemOperand}
    (hx : ∀ low, (gregOf x low).toNat < g) (hb : ∀ low, (gregOf b low).toNat < g)
    (h : takeSib mod x b bs = .ok (m, rest)) : m.wf g = true := by
  cases bs with
  | nil => cases h
  | cons sib bs =>
    simp only [takeSib] at h
    split at h
    · split at h
      · cases h
        exact indexOk_indexOf hx _
      · cases h
    · next hne =>
      split at h
      · next hd =>
        cases h
        simp [MemOperand.wf, indexOk_indexOf hx, baseOk_takeDisp hb hd hne]
      · cases h

theorem takeMem_wf {mod : BitVec 2} {rm : BitVec 3} {x b : Bool} {g : Nat} {bs rest : List Byte} {m : MemOperand}
    (hx : ∀ low, (gregOf x low).toNat < g) (hb : ∀ low, (gregOf b low).toNat < g)
    (h : takeMem mod rm x b bs = .ok (m, rest)) : m.wf g = true := by
  unfold takeMem at h
  split at h
  · exact takeSib_wf hx hb h
  · next hsib =>
    split at h
    · split at h
      · cases h; rfl
      · cases h
    · next hne =>
      split at h
      · next hd =>
        cases h
        simp [MemOperand.wf, baseOk_takeDisp hb hd hne, gLow_gregOf, hsib]
      · cases h

/-- The operand of `takeRm` can be encoded with the registers its extension bits reach, and 16-bit addressing is
refused (R55). -/
theorem takeRm_wf {mode64 addr67 hi x b : Bool} {mod : BitVec 2} {low : BitVec 3} {v g : Nat} {bs rest : List Byte}
    {rm : Rm} (hv : ∀ low, (vregOf hi b low).toNat < v) (hx : ∀ low, (gregOf x low).toNat < g)
    (hb : ∀ low, (gregOf b low).toNat < g) (h : takeRm mode64 addr67 hi x b mod low bs = .ok (rm, rest)) :
    rm.wf v g = true ∧ (mode64 || !addr67 || rm.isReg) = true := by
  unfold takeRm at h
  split at h
  · cases h
    exact ⟨by simp [Rm.wf, hv], by simp [Rm.isReg]⟩
  · split at h
    · cases h
    · next haddr =>
      split at h
      · next hm =>
        cases h
        refine ⟨takeMem_wf hx hb hm, ?_⟩
        cases mode64 <;> simp at haddr ⊢
        simp [haddr]
      · cases h

/-- ModRM, operand and immediate are read in this order. -/
theorem takeOperands_ok {mode64 addr67 hi x b : Bool} {bs rest : List Byte} {reg : BitVec 3} {rm : Rm} {imm : Byte}
    (h : takeOperands mode64 addr67 hi x b bs = .ok ((reg, rm, imm), rest)) :
    ∃ modrm tail, bs = modrm :: tail ∧ reg = field modrm 3 3 ∧
      takeRm mode64 addr67 hi x b (field modrm 6 2) (field modrm 0 3) tail = .ok (rm, imm :: rest) := by
  cases bs with
  | nil => cases h
  | cons modrm tail =>
    simp only [takeOperands] at h
    split at h
    · cases h
    · cases h
    · next hrm =>
      cases h
      exact ⟨modrm, tail, rfl, rfl, hrm⟩

theorem takeOperands_wf {mode64 addr67 hi x b : Bool} {v g : Nat} {bs rest : List Byte} {reg : BitVec 3} {rm : Rm}
    {imm : Byte} (hv : ∀ low, (vregOf hi b low).toNat < v) (hx : ∀ low, (gregOf x low).toNat < g)
    (hb : ∀ low, (gregOf b low).toNat < g)
    (h : takeOperands mode64 addr67 hi x b bs = .ok ((reg, rm, imm), rest)) :
    rm.wf v g = true ∧ (mode64 || !addr67 || rm.isReg) = true := by
  obtain ⟨_, _, -, -, hrm⟩ := takeOperands_ok h
  exact takeRm_wf hv hx hb hrm

theorem admitLen_ok {i j : Instr} {bs rest : List Byte} :
    admitLen i bs = .ok (j, rest) ↔ i.len ≤ 15 ∧ j = i ∧ rest = bs := by
  unfold admitLen
  split
  · next h => simp [h, eq_comm]
  · next h => simp [h]

/-! ### The encodings -/

/-- The legacy encoding, with and without a REX byte (R56). -/
theorem decodeLegacy_ok {mode64 : Bool} {pfx : List Prefix} {rex : Option Byte} {bs rest : List Byte} {i : Instr}
    (h : decodeLegacy mode64 pfx rex bs = .ok (i, rest)) :
    legacyPrefixProblem pfx = none ∧ i.len ≤ 15 ∧ ∃ tail reg rm imm, bs = 0xC6#8 :: tail ∧
      ((rex = none ∧
        takeOperands mode64 (pfx.contains .addrSize) false false false tail = .ok ((reg, rm, imm), rest) ∧
        i = .shufpd pfx (vregOf false false reg) rm imm) ∨
      ∃ r, rex = some r ∧
        takeOperands mode64 (pfx.contains .addrSize) false (bitOf r 1) (bitOf r 0) tail = .ok ((reg, rm, imm), rest) ∧
        i = .shufpdRex pfx (vregOf false (bitOf r 2) reg) rm imm) := by
  cases bs with
  | nil => cases h
  | cons op tail =>
    simp only [decodeLegacy] at h
    split at h
    · cases h
    next hop =>
    split at h
    · cases h
    next hpfx =>
    split at h <;> split at h
    · cases h
    next hops =>
      obtain ⟨hlen, rfl, rfl⟩ := admitLen_ok.1 h
      exact ⟨hpfx, hlen, _, _, _, _, by rw [not_not.1 hop], .inl ⟨rfl, hops, rfl⟩⟩
    · cases h
    next hops =>
      obtain ⟨hlen, rfl, rfl⟩ := admitLen_ok.1 h
      exact ⟨hpfx, hlen, _, _, _, _, by rw [not_not.1 hop], .inr ⟨_, rfl, hops, rfl⟩⟩

/-- The two-byte VEX encoding (R57). -/
theorem decodeVex2_ok {mode64 : Bool} {pfx : List Prefix} {bs rest : List Byte} {i : Instr}
    (h : decodeVex2 mode64 pfx bs = .ok (i, rest)) :
    vexPrefixProblem pfx = none ∧ i.len ≤ 15 ∧ ∃ p tail reg rm imm, bs = p :: 0xC6#8 :: tail ∧
      (mode64 = false → field p 6 2 = 3#2) ∧ field p 0 2 = 1#2 ∧
      takeOperands mode64 (pfx.contains .addrSize) false false false tail = .ok ((reg, rm, imm), rest) ∧
      i = (if bitOf p 2 then Instr.vshufpdVex2L256 else Instr.vshufpdVex2L128) pfx (vregOf false (!bitOf p 7) reg)
        (vregOfVvvv false (~~~ field p 3 4)) rm imm := by
  unfold decodeVex2 at h
  split at h
  swap
  · cases h
  split at h
  · cases h
  next hhead =>
  obtain ⟨hmode, hpp, hop⟩ : (mode64 = false → field _ 6 2 = 3#2) ∧ _ = 1#2 ∧ _ = 0xC6#8 := by simpa using hhead
  split at h
  · cases h
  next hpfx =>
  split at h
  · cases h
  next hops =>
  split at h
  all_goals
    next hl =>
    obtain ⟨hlen, rfl, rfl⟩ := admitLen_ok.1 h
    exact ⟨hpfx, hlen, _, _, _, _, _, by rw [hop], hmode, hpp, hops, by simp [hl]⟩

/-- The three-byte VEX encoding (R57). -/
theorem decodeVex3_ok {mode64 : Bool} {pfx : List Prefix} {bs rest : List Byte} {i : Instr}
    (h : decodeVex3 mode64 pfx bs = .ok (i, rest)) :
    vexPrefixProblem pfx = none ∧ i.len ≤ 15 ∧ ∃ p1 p2 tail reg rm imm, bs = p1 :: p2 :: 0xC6#8 :: tail ∧
      (mode64 = false → field p1 6 2 = 3#2 ∧ bitOf p2 6 = true) ∧ field p1 0 5 = 1#5 ∧ field p2 0 2 = 1#2 ∧
      takeOperands mode64 (pfx.contains .addrSize) false (!bitOf p1 6) (mode64 && !bitOf p1 5) tail =
        .ok ((reg, rm, imm), rest) ∧
      i = (if bitOf p2 2 then Instr.vshufpdVex3L256 else Instr.vshufpdVex3L128) pfx (vregOf false (!bitOf p1 7) reg)
        (vregOfVvvv false (~~~ field p2 3 4)) rm imm := by
  unfold decodeVex3 at h
  split at h
  swap
  · cases h
  split at h
  · cases h
  next hhead =>
  obtain ⟨hmode, hmap, hpp, hop⟩ : (mode64 = false → field _ 6 2 = 3#2) ∧ _ = 1#5 ∧ _ = 1#2 ∧ _ = 0xC6#8 := by
    simpa using hhead
  split at h
  · cases h
  next hpfx =>
  split at h
  · cases h
  next hvvvv =>
  split at h
  · cases h
  next hops =>
  split at h
  all_goals
    next hl =>
    obtain ⟨hlen, rfl, rfl⟩ := admitLen_ok.1 h
    exact ⟨hpfx, hlen, _, _, _, _, _, _, by rw [hop], fun hm => ⟨hmode hm, by simpa [hm] using hvvvv⟩, hmap, hpp, hops,
      by simp [hl]⟩

theorem check_eq_none {α : Type} {c : Prop} [Decidable c] {e : α} {o : Option α} :
    (if c then some e else o) = none ↔ ¬c ∧ o = none := by
  by_cases h : c <;> simp [h]

/-- What the payload bytes of an admitted EVEX encoding satisfy (R58, R60, R67). -/
theorem evexProblem_none {mode64 : Bool} {p0 p1 p2 : Byte} :
    evexProblem mode64 p0 p1 p2 = none ↔
      (field p0 2 2 = 0#2 ∧ bitOf p1 2 = true) ∧ bitOf p1 7 = true ∧ field p2 5 2 ≠ 3#2 ∧
        ¬(bitOf p2 7 = true ∧ field p2 0 3 = 0#3) ∧
        (mode64 = false → bitOf p0 4 = true ∧ bitOf p1 6 = true ∧ bitOf p2 3 = true) := by
  simp only [evexProblem, check_eq_none, not_or, not_and, ne_eq, not_not, Bool.not_eq_false, and_true]

/-- The EVEX encoding (R58). -/
theorem decodeEvex_ok {mode64 : Bool} {pfx : List Prefix} {bs rest : List Byte} {i : Instr}
    (h : decodeEvex mode64 pfx bs = .ok (i, rest)) :
    vexPrefixProblem pfx = none ∧ i.len ≤ 15 ∧ ∃ p0 p1 p2 tail reg rm imm, bs = p0 :: p1 :: p2 :: 0xC6#8 :: tail ∧
      (mode64 = false → field p0 6 2 = 3#2) ∧ field p0 0 2 = 1#2 ∧ field p1 0 2 = 1#2 ∧
      evexProblem mode64 p0 p1 p2 = none ∧
      takeOperands mode64 (pfx.contains .addrSize) (!bitOf p0 6) (!bitOf p0 6) (mode64 && !bitOf p0 5) tail =
        .ok ((reg, rm, imm), rest) ∧
      ¬(bitOf p2 4 = true ∧ rm.isReg = true) ∧
      i = evexForm (field p2 5 2) pfx (vregOf (!bitOf p0 4) (!bitOf p0 7) reg) (field p2 0 3) (bitOf p2 7)
        (vregOfVvvv (!bitOf p2 3) (~~~ field p1 3 4)) rm (bitOf p2 4) imm := by
  unfold decodeEvex at h
  split at h
  swap
  · cases h
  split at h
  · cases h
  next hhead =>
  obtain ⟨hmode, hmap, hpp, hop⟩ : (mode64 = false → field _ 6 2 = 3#2) ∧ _ = 1#2 ∧ _ = 1#2 ∧ _ = 0xC6#8 := by
    simpa using hhead
  split at h
  · cases h
  next hpfx =>
  split at h
  · cases h
  next hev =>
  split at h
  · cases h
  next hops =>
  split at h
  · cases h
  next hbc =>
  obtain ⟨hlen, rfl, rfl⟩ := admitLen_ok.1 h
  exact ⟨hpfx, hlen, _, _, _, _, _, _, _, by rw [hop], hmode, hmap, hpp, hev, hops, by simpa using hbc, rfl⟩

theorem decodeRex_ok {pfx : List Prefix} {rex : Byte} {bs rest : List Byte} {i : Instr}
    (h : decodeRex pfx rex bs = .ok (i, rest)) :
    ∃ tail, bs = 0x0F#8 :: tail ∧ decodeLegacy true pfx (some rex) tail = .ok (i, rest) := by
  cases bs with
  | nil => cases h
  | cons b tail =>
    simp only [decodeRex] at h
    split at h
    · next hb => exact ⟨tail, by rw [hb], h⟩
    split at h
    · cases h
    split at h <;> cases h

/-- The decoder: after the legacy prefixes, one of the five encodings (R64). -/
theorem decode_ok {mode64 : Bool} {bs rest : List Byte} {i : Instr} (h : decode mode64 bs = .ok (i, rest)) :
    ∃ pfx b tail, takePrefixes bs = (pfx, b :: tail) ∧
      ((b = 0x0F#8 ∧ decodeLegacy mode64 pfx none tail = .ok (i, rest)) ∨
        (b = 0xC5#8 ∧ decodeVex2 mode64 pfx tail = .ok (i, rest)) ∨
        (b = 0xC4#8 ∧ decodeVex3 mode64 pfx tail = .ok (i, rest)) ∨
        (b = 0x62#8 ∧ decodeEvex mode64 pfx tail = .ok (i, rest)) ∨
        (mode64 = true ∧ field b 4 4 = 4#4 ∧ decodeRex pfx b tail = .ok (i, rest))) := by
  unfold decode at h
  split at h
  · cases h
  next pfx b tail htake =>
  refine ⟨pfx, b, tail, htake, ?_⟩
  split at h
  · next hb => exact .inl ⟨hb, h⟩
  split at h
  · next hb => exact .inr (.inl ⟨hb, h⟩)
  split at h
  · next hb => exact .inr (.inr (.inl ⟨hb, h⟩))
  split at h
  · next hb => exact .inr (.inr (.inr (.inl ⟨hb, h⟩)))
  split at h
  · next hb =>
    obtain ⟨hm, hrex⟩ : mode64 = true ∧ field b 4 4 = 4#4 := by simpa using hb
    exact .inr (.inr (.inr (.inr ⟨hm, hrex, h⟩)))
  · cases h

/-! ### Decoded instructions are well-formed (R72) -/

theorem wf_iff {mode64 : Bool} {i : Instr} :
    i.wf mode64 = true ↔ i.len ≤ 15 ∧ addressingOk mode64 i = true ∧ i.operandsOk mode64 = true := by
  simp [Instr.wf, and_assoc]

theorem decodeLegacy_wf {mode64 : Bool} {pfx : List Prefix} {rex : Option Byte} {bs rest : List Byte} {i : Instr}
    (hrex : rex ≠ none → mode64 = true) (h : decodeLegacy mode64 pfx rex bs = .ok (i, rest)) :
    i.wf mode64 = true := by
  obtain ⟨hpfx, hlen, _, reg, rm, imm, -, ⟨rfl, hops, rfl⟩ | ⟨r, rfl, hops, rfl⟩⟩ := decodeLegacy_ok h
  · obtain ⟨hrm, haddr⟩ := takeOperands_wf vregOf_false_false_lt gregOf_false_lt gregOf_false_lt hops
    exact wf_iff.2 ⟨hlen, haddr, by simp [Instr.operandsOk, hpfx, hrm, vregOf_false_false_lt]⟩
  · obtain ⟨hrm, haddr⟩ := takeOperands_wf (vregOf_false_lt _) (gregOf_lt _) (gregOf_lt _) hops
    exact wf_iff.2 ⟨hlen, haddr, by simp [Instr.operandsOk, hpfx, hrm, vregOf_false_lt, hrex]⟩

theorem decodeVex2_wf {mode64 : Bool} {pfx : List Prefix} {bs rest : List Byte} {i : Instr}
    (h : decodeVex2 mode64 pfx bs = .ok (i, rest)) : i.wf mode64 = true := by
  obtain ⟨hpfx, hlen, p, _, reg, rm, imm, -, hmode, -, hops, rfl⟩ := decodeVex2_ok h
  obtain ⟨hrm, haddr⟩ := takeOperands_wf vregOf_false_false_lt gregOf_false_lt gregOf_false_lt hops
  have hbits : mode64 = false → bitOf p 6 = true ∧ bitOf p 7 = true := fun hm => field_eq_three (hmode hm)
  have hd : (vregOf false (!bitOf p 7) reg).toNat < vexRegs mode64 :=
    vregOf_lt_vexRegs (fun hm => by simp [hbits hm]) reg
  have hs1 : (vregOfVvvv false (~~~ field p 3 4)).toNat < vexRegs mode64 :=
    vregOfVvvv_lt_vexRegs fun hm => not_field_getLsbD_three (hbits hm).1
  rw [wf_iff]
  split at hlen <;> next hl =>
    simp only [hl]
    exact ⟨hlen, haddr, by simp [Instr.operandsOk, hpfx, hrm, hd, hs1]⟩

theorem decodeVex3_wf {mode64 : Bool} {pfx : List Prefix} {bs rest : List Byte} {i : Instr}
    (h : decodeVex3 mode64 pfx bs = .ok (i, rest)) : i.wf mode64 = true := by
  obtain ⟨hpfx, hlen, p1, p2, _, reg, rm, imm, -, hmode, -, -, hops, rfl⟩ := decodeVex3_ok h
  have hbits : mode64 = false → bitOf p1 6 = true ∧ bitOf p1 7 = true := fun hm => field_eq_three (hmode hm).1
  have hb : mode64 = false → (mode64 && !bitOf p1 5) = false := fun hm => by simp [hm]
  have hx : mode64 = false → (!bitOf p1 6) = false := fun hm => by simp [hbits hm]
  obtain ⟨hrm, haddr⟩ := takeOperands_wf (vregOf_lt_vexRegs hb) (gregOf_lt_vexRegs hx) (gregOf_lt_vexRegs hb) hops
  have hd : (vregOf false (!bitOf p1 7) reg).toNat < vexRegs mode64 :=
    vregOf_lt_vexRegs (fun hm => by simp [hbits hm]) reg
  have hs1 : (vregOfVvvv false (~~~ field p2 3 4)).toNat < vexRegs mode64 :=
    vregOfVvvv_lt_vexRegs fun hm => not_field_getLsbD_three (hmode hm).2
  rw [wf_iff]
  split at hlen <;> next hl =>
    simp only [hl]
    exact ⟨hlen, haddr, by simp [Instr.operandsOk, hpfx, hrm, hd, hs1]⟩

section evexForm

variable (ll : BitVec 2) (pfx : List Prefix) (d : VReg) (k : BitVec 3) (z : Bool) (s1 : VReg) (rm : Rm) (b : Bool)
  (imm : Byte)

@[simp] theorem evexForm_pfx : (evexForm ll pfx d k z s1 rm b imm).pfx = pfx := by unfold evexForm; split <;> rfl

@[simp] theorem evexForm_src2 : (evexForm ll pfx d k z s1 rm b imm).src2 = rm := by unfold evexForm; split <;> rfl

theorem evexForm_operandsOk (mode64 : Bool) :
    (evexForm ll pfx d k z s1 rm b imm).operandsOk mode64 =
      (vexPrefixProblem pfx == none && decide (d.toNat < evexRegs mode64) && decide (s1.toNat < evexRegs mode64) &&
        rm.wf (evexRegs mode64) (vexRegs mode64) && evexOk k z rm b) := by
  unfold evexForm; split <;> rfl

end evexForm

theorem decodeEvex_wf {mode64 : Bool} {pfx : List Prefix} {bs rest : List Byte} {i : Instr}
    (h : decodeEvex mode64 pfx bs = .ok (i, rest)) : i.wf mode64 = true := by
  obtain ⟨hpfx, hlen, p0, p1, p2, _, reg, rm, imm, -, hmode, -, -, hev, hops, hbc, rfl⟩ := decodeEvex_ok h
  obtain ⟨-, -, -, hzero, hhigh⟩ := evexProblem_none.1 hev
  have hbits : mode64 = false → bitOf p0 6 = true ∧ bitOf p0 7 = true := fun hm => field_eq_three (hmode hm)
  have hb : mode64 = false → (mode64 && !bitOf p0 5) = false := fun hm => by simp [hm]
  have hx : mode64 = false → (!bitOf p0 6) = false := fun hm => by simp [hbits hm]
  obtain ⟨hrm, haddr⟩ := takeOperands_wf (vregOf_lt_evexRegs hx hb) (gregOf_lt_vexRegs hx) (gregOf_lt_vexRegs hb) hops
  have hd : (vregOf (!bitOf p0 4) (!bitOf p0 7) reg).toNat < evexRegs mode64 :=
    vregOf_lt_evexRegs (fun hm => by simp [hhigh hm]) (fun hm => by simp [hbits hm]) reg
  have hs1 : (vregOfVvvv (!bitOf p2 3) (~~~ field p1 3 4)).toNat < evexRegs mode64 :=
    vregOfVvvv_lt_evexRegs (fun hm => by simp [hhigh hm]) fun hm => not_field_getLsbD_three (hhigh hm).2.1
  have hmask : evexOk (field p2 0 3) (bitOf p2 7) rm (bitOf p2 4) = true := by
    simpa [evexOk] using And.intro (not_and_or.1 hbc) (not_and_or.1 hzero)
  refine wf_iff.2 ⟨hlen, by simpa [addressingOk] using haddr, ?_⟩
  simp [evexForm_operandsOk, hpfx, hd, hs1, hrm, hmask]

/-- Whatever the decoder answers is well-formed in its mode: the registers of each encoding, the shape of its memory
operand, the bytes before it and its length. -/
theorem decode_wf {mode64 : Bool} {bs rest : List Byte} {i : Instr} (h : decode mode64 bs = .ok (i, rest)) :
    i.wf mode64 = true := by
  obtain ⟨pfx, b, tail, -, ⟨-, h⟩ | ⟨-, h⟩ | ⟨-, h⟩ | ⟨-, h⟩ | ⟨rfl, -, h⟩⟩ := decode_ok h
  · exact decodeLegacy_wf (fun hne => absurd rfl hne) h
  · exact decodeVex2_wf h
  · exact decodeVex3_wf h
  · exact decodeEvex_wf h
  · obtain ⟨_, -, hlegacy⟩ := decodeRex_ok h
    exact decodeLegacy_wf (fun _ => rfl) hlegacy

/-! ### The registers of a well-formed instruction -/

theorem baseOk_lt {g : Nat} {r : GReg} {disp : Disp} (h : baseOk g r disp = true) : r.toNat < g := by
  simp only [baseOk, Bool.and_eq_true, decide_eq_true_eq] at h
  exact h.1

theorem indexOk_lt {g : Nat} {index : Option GReg} (h : indexOk g index = true) : ∀ r ∈ index, r.toNat < g := by
  rintro r rfl
  simp only [indexOk, Bool.and_eq_true, decide_eq_true_eq] at h
  exact h.1

/-- The general registers of a well-formed operand are below its bound. -/
theorem gregsOf_lt_of_wf {v g : Nat} {rm : Rm} (h : rm.wf v g = true) : ∀ r ∈ Safety.gregsOf rm, r.toNat < g := by
  cases rm with
  | reg r => simp [Safety.gregsOf]
  | mem m =>
    cases m with
    | base r disp =>
      simp only [Rm.wf, MemOperand.wf, Bool.and_eq_true] at h
      simpa [Safety.gregsOf] using baseOk_lt h.1
    | disp32 d => simp [Safety.gregsOf]
    | sib scale index r disp =>
      simp only [Rm.wf, MemOperand.wf, Bool.and_eq_true] at h
      simpa [Safety.gregsOf] using And.intro (baseOk_lt h.2) (indexOk_lt h.1)
    | sibNoBase scale index d => simpa [Safety.gregsOf] using indexOk_lt h

/-- How many vector registers an encoding family can name (R11). -/
def familyRegs (mode64 : Bool) : Family → Nat
  | .legacy => vexRegs mode64
  | .vex => vexRegs mode64
  | .evex => evexRegs mode64

theorem eight_le_vexRegs (mode64 : Bool) : 8 ≤ vexRegs mode64 := by cases mode64 <;> decide

/-- Each row keeps DEST and SRC1 below the registers of its family and SRC2 below bounds of its own. -/
theorem operandsOk_bounds {mode64 : Bool} {i : Instr} (h : i.operandsOk mode64 = true) :
    i.dest.toNat < familyRegs mode64 i.family ∧ i.src1.toNat < familyRegs mode64 i.family ∧
      ∃ v g, v ≤ familyRegs mode64 i.family ∧ g ≤ vexRegs mode64 ∧ i.src2.wf v g = true := by
  have h8 := eight_le_vexRegs mode64
  cases i <;> simp only [Instr.operandsOk, Bool.and_eq_true, decide_eq_true_eq] at h
  case shufpd =>
    obtain ⟨⟨-, hd⟩, hrm⟩ := h
    exact ⟨hd.trans_le h8, hd.trans_le h8, 8, 8, h8, h8, hrm⟩
  case shufpdRex =>
    obtain ⟨⟨⟨rfl, -⟩, hd⟩, hrm⟩ := h
    exact ⟨hd, hd, 16, 16, le_rfl, le_rfl, hrm⟩
  case vshufpdVex2L128 | vshufpdVex2L256 =>
    obtain ⟨⟨⟨-, hd⟩, hs1⟩, hrm⟩ := h
    exact ⟨hd, hs1, 8, 8, h8, h8, hrm⟩
  case vshufpdVex3L128 | vshufpdVex3L256 =>
    obtain ⟨⟨⟨-, hd⟩, hs1⟩, hrm⟩ := h
    exact ⟨hd, hs1, _, _, le_rfl, le_rfl, hrm⟩
  case vshufpdEvex128 | vshufpdEvex256 | vshufpdEvex512 =>
    obtain ⟨⟨⟨⟨-, hd⟩, hs1⟩, hrm⟩, -⟩ := h
    exact ⟨hd, hs1, _, _, le_rfl, le_rfl, hrm⟩

theorem vexRegs_le_nvreg (l : Config.Launch) : vexRegs l.mode64 ≤ Machine.nvreg l := by
  unfold vexRegs Machine.nvreg
  cases l.mode64 <;> cases l.hasAvx512f <;> decide

/-- On a processor that has a form, the registers its family can name exist (R11). -/
theorem familyRegs_le_nvreg {l : Config.Launch} {i : Instr} (h : Safety.hasFeatures l i = true) :
    familyRegs l.mode64 i.family ≤ Machine.nvreg l := by
  cases hf : i.family with
  | legacy | vex => exact vexRegs_le_nvreg l
  | evex =>
    have havx : l.hasAvx512f = true := by
      simp only [Safety.hasFeatures, hf, Bool.and_eq_true] at h
      exact h.1
    simp [familyRegs, evexRegs, Machine.nvreg, havx]

end Sys2Proof

namespace Sys2Proof.Proofs

open Sys2Proof.Machine Sys2Proof.Safety

/-- Settles O11: a decoded instruction is well-formed, and the bounds of its family are registers that exist. -/
theorem namedRegistersExist : Obligations.NamedRegistersExist := by
  intro l bs rest i hdec hfeat
  obtain ⟨-, -, hok⟩ := wf_iff.1 (decode_wf hdec)
  obtain ⟨hd, hs1, v, g, hv, hg, hrm⟩ := operandsOk_bounds hok
  have hle := familyRegs_le_nvreg hfeat
  refine ⟨hd.trans_le hle, hs1.trans_le hle, fun r hr => ?_, fun r hr => (gregsOf_lt_of_wf hrm r hr).trans_le hg⟩
  rw [hr] at hrm
  exact ((of_decide_eq_true hrm).trans_le hv).trans_le hle

end Sys2Proof.Proofs

/-! # Proofs: the launch, admitted programs, and the invariant -/

namespace Sys2Proof.Machine

theorem launchConsistent_iff {l : Config.Launch} :
    launchConsistent l = true ↔
      (l.hasAvx = true → l.maxVl ≠ .v128) ∧ (l.hasAvx512f = true → l.maxVl = .v512) := by
  cases hv : l.maxVl <;> simp [launchConsistent, hv]

theorem step_of_fetch_ok {s : State} {i : Instr} (h : fetch s = .ok i) : step s = exec i s := by rw [step, h]

theorem step_of_fetch_error {s : State} {r : Refusal} (h : fetch s = .error r) : step s = .refused r := by rw [step, h]

theorem fetch_of_inconsistent {s : State} (hf : s.launch.facilities = false)
    (hc : launchConsistent s.launch = false) : fetch s = .error .inconsistentLaunch := by
  simp [fetch, hf, hc]

theorem reset_vreg (r : VReg) : State.reset.vreg r = Vector.replicate 8 0 := by
  simp [State.vreg, State.reset]

/-- A `pc + len` below 2^64 is the sum of the numbers (R18). -/
theorem advance_pc_toNat {s : State} {len : Nat} (h : s.pc.toNat + len < 2 ^ 64) :
    (s.advance len).pc.toNat = s.pc.toNat + len := by
  simp only [advance_pc, BitVec.toNat_add, BitVec.toNat_ofNat, Nat.add_mod_mod]
  exact Nat.mod_eq_of_lt h

end Sys2Proof.Machine

namespace Sys2Proof.Safety

open Sys2Proof.Machine

theorem len_pos (i : Instr) : 0 < i.len := Nat.succ_pos _

/-- The next `pc` of a form that ends within the program. -/
theorem advance_pc_toNat_of_le {s : State} {i : Instr} (h : s.pc.toNat + i.len ≤ s.progEnd.toNat) :
    (s.advance i.len).pc.toNat = s.pc.toNat + i.len :=
  advance_pc_toNat (h.trans_lt s.progEnd.isLt)

/-! ### Admitted programs (R162) -/

/-- Only a launch that the spec admits has an admitted program (R16, R145). -/
theorem admits_launch {n : Nat} {s : State} (h : admits n s) :
    launchConsistent s.launch = true ∧ s.launch.facilities = false := by
  induction n generalizing s with
  | zero => exact h.2
  | succ n ih =>
    obtain ⟨i, -, hrest⟩ := h
    have hlaunch := ih hrest
    exact hlaunch

/-- The machine's check finds no problem in an admitted program, with as much fuel as there are bytes: every form has
a byte. -/
theorem programProblem_of_admits {n fuel : Nat} {s : State} (h : admits n s)
    (hfuel : s.progEnd.toNat ≤ s.pc.toNat + fuel) : programProblem fuel s = none := by
  induction fuel generalizing n s with
  | zero =>
    cases n with
    | zero => simp [programProblem, h.1]
    | succ n =>
      obtain ⟨i, ⟨-, hend, -⟩, -⟩ := h
      have := len_pos i
      omega
  | succ fuel ih =>
    rw [programProblem_succ_none]
    cases n with
    | zero => exact .inl h.1
    | succ n =>
      obtain ⟨i, hform, hrest⟩ := h
      have ⟨_, hend, _⟩ := hform
      have hpc := advance_pc_toNat_of_le hend
      have := len_pos i
      exact .inr ⟨i, formIs_iff.1 hform, ih hrest (by rw [hpc, advance_progEnd]; omega)⟩

theorem restProblem_of_admits {n : Nat} {s : State} (h : admits n s) : restProblem s = none :=
  programProblem_of_admits h (by omega)

/-- The first form of an admitted program that is not at its end is fetched. -/
theorem fetch_of_admits {n : Nat} {s : State} (h : admits n s) (hpc : s.pc ≠ s.progEnd) :
    ∃ i, formIs s i ∧ fetch s = .ok i := by
  obtain ⟨hcons, hfac⟩ := admits_launch h
  have hrest := restProblem_of_admits h
  cases n with
  | zero => exact absurd h.1 hpc
  | succ n =>
    obtain ⟨i, hform, -⟩ := h
    exact ⟨i, hform, fetch_ok.2 ⟨hfac, hcons, hpc, hrest, formIs_iff.1 hform⟩⟩

/-! ### The invariant -/

theorem elems_le_of_bits_le {vl vl' : VecLen} (h : vl.bits ≤ vl'.bits) : vl.elems ≤ vl'.elems := by
  rw [VecLen.bits_eq, VecLen.bits_eq] at h
  omega

/-- Above its vector length every form writes zeros or keeps what was there (R90, R95, R97, R107). -/
theorem newDest_getElem_of_le {i : Instr} {j : Fin 8} (h : i.vl.elems ≤ j.val) (s : State) (b : Vec) :
    (newDest i s b)[j] = 0 ∨ (newDest i s b)[j] = (s.vreg i.dest)[j] := by
  unfold newDest
  split
  · exact .inr (by rw [keepUpper_getElem, if_neg (Nat.not_lt.2 h)])
  · rw [← shuf_getElem_of_le h (s.vreg i.src1) b i.imm8]
    exact vexUpper_getElem_of_le h _ _ _
  · exact .inl (by rw [maskWrite_getElem, if_neg (Nat.not_lt.2 h)])

/-- What a step that hands on a state has checked and done. -/
theorem step_next_cases {s t : State} (h : step s = .next t) :
    ∃ i b, formIs s i ∧ ready s i ∧ t = (s.setVreg i.dest (newDest i s b)).advance i.len := by
  obtain ⟨i, hfetch, hexec⟩ := step_next.1 h
  obtain ⟨-, -, -, -, hform⟩ := fetch_ok.1 hfetch
  obtain ⟨hready, -, b, -, ht⟩ := exec_next.1 hexec
  exact ⟨i, b, formIs_iff.2 hform, hready, ht⟩

/-- A form that is admitted against `MAX_VL` leaves nothing above it (R10, R16). -/
theorem newDest_zero_above {s : State} {i : Instr} {j : Fin 8} (hlen : i.vl.bits ≤ s.launch.maxVl.bits)
    (hj : s.launch.maxVl.elems ≤ j.val) (hold : (s.vreg i.dest)[j] = 0) (b : Vec) : (newDest i s b)[j] = 0 := by
  obtain hzero | hkept := newDest_getElem_of_le ((elems_le_of_bits_le hlen).trans hj) s b
  · exact hzero
  · exact hkept.trans hold

end Sys2Proof.Safety

namespace Sys2Proof.Proofs

open Sys2Proof.Machine Sys2Proof.Safety

/-- Settles O46: an admitted program is fetched, and the decoder answers one instruction. -/
theorem stepRunsTheDecodedInstruction : Obligations.StepRunsTheDecodedInstruction := by
  intro n s i rest hadm hpc hdec
  obtain ⟨j, ⟨⟨rest', hdec'⟩, -⟩, hfetch⟩ := fetch_of_admits hadm hpc
  obtain ⟨rfl, -⟩ := Prod.mk.inj (Except.ok.inj (hdec.symm.trans hdec'))
  exact step_of_fetch_ok hfetch

/-- Settles O50. -/
theorem inconsistentLaunchIsRefused : Obligations.InconsistentLaunchIsRefused := by
  intro s hfac hbad
  refine step_of_fetch_error (fetch_of_inconsistent hfac (Bool.eq_false_iff.2 fun hc => ?_))
  obtain ⟨havx, havx512⟩ := launchConsistent_iff.1 hc
  obtain ⟨hhas, hvl⟩ | ⟨hhas, hvl⟩ := hbad
  · exact havx hhas hvl
  · exact hvl (havx512 hhas)

/-- Settles O53. -/
theorem invariantHoldsAtReset : Obligations.InvariantHoldsAtReset := by
  refine ⟨reset_mem_wf, fun r j _ => ?_, fun r _ => reset_vreg r, ?_, le_rfl⟩
  · simp [reset_vreg]
  · exact fun h => absurd h (by decide)

/-- Settles O54: the destination exists, is zero above `MAX_VL`, and the form ends within the program. -/
theorem invariantIsKept : Obligations.InvariantIsKept := by
  intro s t hinv hstep
  obtain ⟨hmem, habove, habsent, hwidth, -⟩ := hinv
  obtain ⟨i, b, ⟨⟨rest, hdec⟩, hend, hfits, -⟩, ⟨hfeat, hlen, -, -⟩, rfl⟩ := step_next_cases hstep
  have hpc : ((s.setVreg i.dest (newDest i s b)).advance i.len).pc.toNat = s.pc.toNat + i.len :=
    advance_pc_toNat_of_le hend
  have hdest : i.dest.toNat < nvreg s.launch := (namedRegistersExist s.launch _ rest i hdec hfeat).1
  refine ⟨hmem, fun r j hj => ?_, fun r hr => ?_, fun hmode => ?_, hpc ▸ hend⟩
  · rw [advance_vreg, setVreg_vreg]
    split
    · exact newDest_zero_above hlen hj (habove i.dest j hj) b
    · exact habove r j hj
  · have hne : r ≠ i.dest := by
      rintro rfl
      exact absurd hdest (Nat.not_lt.2 hr)
    rw [advance_vreg, setVreg_vreg_ne hne]
    exact habsent r hr
  · have hbits : addrBits s.launch = 32 := by
      simp only [addrBits, show s.launch.mode64 = false from hmode, Bool.false_eq_true, if_false]
    rw [hpc, ← hbits]
    exact hfits

end Sys2Proof.Proofs

/-! # Proofs: memory and the operand read -/

namespace Sys2Proof

theorem VecLen.bytes_eq (vl : VecLen) : vl.bytes = 8 * vl.elems := by cases vl <;> rfl

theorem VecLen.elems_le_eight (vl : VecLen) : vl.elems ≤ 8 := by cases vl <;> decide

end Sys2Proof

namespace Sys2Proof.Machine

/-! ### A byte of an operand (R31, R33) -/

/-- Byte `i` of eight bytes read is the byte at `addr + i`. -/
theorem Memory.read64_extractLsb' (m : Memory) (addr : Nat) (i : Fin 8) :
    (Memory.read64 m addr).extractLsb' (8 * i.val) 8 = Memory.read m (addr + i.val) := by
  refine BitVec.eq_of_getLsbD_eq fun n hn => ?_
  match i with
  | 0 | 1 | 2 | 3 | 4 | 5 | 6 | 7 =>
    simp (disch := omega) only [Memory.read64, BitVec.getLsbD_extractLsb', BitVec.getLsbD_append, if_pos, if_neg, hn,
      decide_true, Bool.true_and]
    exact congrArg (BitVec.getLsbD _) (by omega)

theorem Memory.readVec_getElem (m : Memory) (vl : VecLen) (ea : Nat) (j : Fin 8) :
    (Memory.readVec m vl ea)[j] = if j.val < vl.elems then Memory.read64 m (ea + 8 * j.val) else 0 := by
  match j with
  | 0 | 1 | 2 | 3 | 4 | 5 | 6 | 7 => rfl

/-- Bits of element `j` are bits of the register from bit `64*j` up (R5). -/
theorem bitsOf_extractLsb'_within (v : Vec) (j : Fin 8) {lo n : Nat} (h : lo + n ≤ 64) :
    (bitsOf v).extractLsb' (64 * j.val + lo) n = v[j].extractLsb' lo n :=
  BitVec.eq_of_getLsbD_eq fun i hi => by
    rw [BitVec.getLsbD_extractLsb', BitVec.getLsbD_extractLsb', Nat.add_assoc, bitsOf_getLsbD v j (by omega)]

/-- Byte `r` of element `j` of an operand is the byte at `ea + 8*j + r`. -/
theorem Memory.readVec_extractLsb' (m : Memory) {vl : VecLen} (ea : Nat) {j : Fin 8} (hj : j.val < vl.elems) (r : Fin 8) :
    (bitsOf (Memory.readVec m vl ea)).extractLsb' (64 * j.val + 8 * r.val) 8 =
      Memory.read m (ea + 8 * j.val + r.val) := by
  rw [bitsOf_extractLsb'_within _ j (by omega), Memory.readVec_getElem, if_pos hj, Memory.read64_extractLsb']

/-! ### Memory after a write (R38, R40) -/

/-- Below every listed address memory holds the unlisted byte. -/
theorem Memory.read_of_lt_wfFrom {m : Memory} {lo a : Nat} (h : Memory.wfFrom lo m = true) (ha : a < lo) :
    Memory.read m a = Config.unlistedByte := by
  induction m generalizing lo with
  | nil => rfl
  | cons c m ih =>
    obtain ⟨a', b⟩ := c
    obtain ⟨hlo, -, -, hm⟩ := (Memory.wfFrom_cons ..).1 h
    rw [Memory.read, if_neg (by omega)]
    exact ih hm (by omega)

/-- Putting a byte in front of memory lists it unless it is the unlisted byte, which is then read anyway. -/
theorem Memory.read_ite_cons {m : Memory} {addr a : Nat} {byte : Byte}
    (h : Memory.read m addr = Config.unlistedByte) :
    Memory.read (if byte = Config.unlistedByte then m else (addr, byte) :: m) a =
      if a = addr then byte else Memory.read m a := by
  by_cases ha : a = addr
  · subst ha
    by_cases hb : byte = Config.unlistedByte <;> simp [hb, h, Memory.read]
  · by_cases hb : byte = Config.unlistedByte <;> simp [hb, ha, Ne.symm ha, Memory.read]

/-- A write in canonical memory is the latest write at its address and leaves every other address as it is. -/
theorem Memory.read_write {m : Memory} {lo : Nat} (h : Memory.wfFrom lo m = true) (addr a : Nat) (byte : Byte) :
    Memory.read (Memory.write m addr byte) a = if a = addr then byte else Memory.read m a := by
  induction m generalizing lo with
  | nil => exact Memory.read_ite_cons rfl
  | cons c m ih =>
    obtain ⟨a', b⟩ := c
    obtain ⟨-, -, -, hm⟩ := (Memory.wfFrom_cons ..).1 h
    rw [Memory.write]
    split
    · next hlt =>
      refine Memory.read_ite_cons ?_
      rw [Memory.read, if_neg (by omega), Memory.read_of_lt_wfFrom hm (by omega)]
    · split
      · next heq =>
        subst heq
        rw [Memory.read_ite_cons (Memory.read_of_lt_wfFrom hm (Nat.lt_succ_self _)), Memory.read]
        split
        · rfl
        · next ha => rw [if_neg (Ne.symm ha)]
      · next hne =>
        rw [Memory.read, Memory.read, ih hm]
        by_cases ha : a' = a
        · subst ha
          simp [Ne.symm hne]
        · simp [ha]

/-! ### When an operand is not read (R34, R37, R39) -/

theorem checkedAddress_of_no_base {al : Bool} {s : State} {pfx : List Prefix} {len scale n : Nat} {m : MemOperand}
    (h : effectiveAddress s pfx len scale m = none) :
    checkedAddress al s pfx len scale n m = .error (.refuse .segmentBaseNotSupplied) := by
  rw [checkedAddress, h]

theorem checkedAddress_of_stop {al : Bool} {s : State} {pfx : List Prefix} {len scale n : Nat} {m : MemOperand}
    {ea : Word} {e : Stop} (h : effectiveAddress s pfx len scale m = some ea)
    (hstop : operandStop al s.launch (segmentOf pfx m) ea.toNat n = some e) :
    checkedAddress al s pfx len scale n m = .error e := by
  simp only [checkedAddress, h, hstop]

theorem operandStop_of_sideEffect {al : Bool} {l : Config.Launch} {σ : Segment} {ea n : Nat}
    (h : touchesSideEffect l ea n = true) : operandStop al l σ ea n = some (.refuse .sideEffectRead) := by
  rw [operandStop, if_pos h]

theorem operandStop_of_fault {al : Bool} {l : Config.Launch} {σ : Segment} {ea n : Nat} {f : Fault}
    (h : touchesSideEffect l ea n = false) (hf : operandFault al l σ ea n = some f) :
    operandStop al l σ ea n = some (.fault f) := by
  simp [operandStop, h, hf]

theorem misaligned_true_iff {ea : Nat} : misaligned true ea = true ↔ ea % 16 ≠ 0 := by
  simp [misaligned, Config.legacyAlignFault]

/-- Where no entry that speaks of the read has a segment cause, the platform answers no segment fault. -/
theorem platformFault_segment_none {l : Config.Launch} {σ : Segment} {ea n : Nat}
    (h : ∀ e ∈ l.memFault, entryApplies σ ea n e = true → e.cause ≠ .segment) :
    platformFault l σ ea n isSegmentCause = none := by
  rw [platformFault, Option.map_eq_none_iff, List.find?_eq_none]
  intro e he
  cases hc : e.cause with
  | segment => simpa [isSegmentCause] using fun happ => h e he happ hc
  | page code => simp [isSegmentCause]
  | alignment => simp [isSegmentCause]

theorem operandFault_of_misaligned {l : Config.Launch} {σ : Segment} {ea n : Nat} (ha : ea % 16 ≠ 0)
    (h : platformFault l σ ea n isSegmentCause = none) :
    operandFault true l σ ea n = some .generalProtection := by
  rw [operandFault, if_pos (misaligned_true_iff.2 ha), h, Option.none_or]

end Sys2Proof.Machine

namespace Sys2Proof.Safety

open Sys2Proof.Machine

/-- A form that may run and whose operand address is not admitted stops for that reason. -/
theorem exec_of_address_error {i : Instr} {s : State} {m : MemOperand} {e : Stop} (hready : ready s i)
    (hrm : i.src2 = .mem m)
    (h : checkedAddress (i.family == .legacy) s i.pfx i.len (dispScale i) (operandBytes i) m = .error e) :
    exec i s = e.take :=
  exec_of_source_error (formGate_none.2 hready) (by rw [source_of_mem hrm, h]; rfl)

theorem touchesSideEffect_true {l : Config.Launch} {ea n : Nat} :
    touchesSideEffect l ea n = true ↔ ∃ r ∈ l.sideEffects, ea < r.2 ∧ r.1 < ea + n := by
  simp [touchesSideEffect]

/-- The alignment condition of the legacy family, for any form of it (R34, R133, R135). -/
theorem exec_of_misaligned_legacy {i : Instr} {s : State} {m : MemOperand} {ea : Word} (hfam : i.family = .legacy)
    (hready : ready s i) (hrm : i.src2 = .mem m) (haddr : effectiveAddress s i.pfx i.len (dispScale i) m = some ea)
    (hseg : ∀ e ∈ s.launch.memFault, entryApplies (segmentOf i.pfx m) ea.toNat (operandBytes i) e = true →
      e.cause ≠ .segment)
    (hside : ∀ r ∈ s.launch.sideEffects, ¬(ea.toNat < r.2 ∧ r.1 < ea.toNat + operandBytes i))
    (halign : ea.toNat % 16 ≠ 0) : exec i s = .fault .generalProtection := by
  have hfault : operandFault (i.family == .legacy) s.launch (segmentOf i.pfx m) ea.toNat (operandBytes i) =
      some .generalProtection := by
    rw [hfam]
    exact operandFault_of_misaligned halign (platformFault_segment_none hseg)
  exact exec_of_address_error hready hrm
    (checkedAddress_of_stop haddr (operandStop_of_fault (touchesSideEffect_false.2 hside) hfault))

end Sys2Proof.Safety

namespace Sys2Proof.Proofs

open Sys2Proof.Machine Sys2Proof.Safety

/-- Settles O16: byte `i` of an operand is byte `i % 8` of its element `i / 8`. -/
theorem operandReadIsLittleEndian : Obligations.OperandReadIsLittleEndian := by
  intro m addr i
  refine ⟨fun hi => Memory.read64_extractLsb' m addr ⟨i, hi⟩, fun vl hi => ?_⟩
  have helem : i / 8 < vl.elems := by
    have hbytes := vl.bytes_eq
    omega
  have hbyte := Memory.readVec_extractLsb' m addr (j := ⟨i / 8, helem.trans_le vl.elems_le_eight⟩) helem
    ⟨i % 8, Nat.mod_lt _ (by decide)⟩
  rwa [show 64 * (i / 8) + 8 * (i % 8) = 8 * i by omega, show addr + 8 * (i / 8) + i % 8 = addr + i by omega] at hbyte

/-- Settles O17, by induction on the listed bytes. -/
theorem memoryReadsTheLatestWrite : Obligations.MemoryReadsTheLatestWrite :=
  fun _ addr a byte hwf => Memory.read_write hwf addr a byte

/-- Settles O39: both legacy rows have the alignment condition. -/
theorem misalignedLegacyOperandRaisesGp : Obligations.MisalignedLegacyOperandRaisesGp := by
  intro s pfx d m imm ea i hi hready haddr hseg hside halign
  obtain rfl | rfl : i = .shufpd pfx d (.mem m) imm ∨ i = .shufpdRex pfx d (.mem m) imm := by simpa using hi
  · exact exec_of_misaligned_legacy rfl hready rfl haddr hseg hside halign
  · exact exec_of_misaligned_legacy rfl hready rfl haddr hseg hside halign

/-- Settles O41: the base is asked for first, then the side effects, then the faults of the read. -/
theorem operandsOutsideTheModelAreRefused : Obligations.OperandsOutsideTheModelAreRefused := by
  intro s i m hready hrm
  refine ⟨fun hnone => ?_, fun ea haddr hside => ?_⟩
  · exact exec_of_address_error hready hrm (checkedAddress_of_no_base hnone)
  · exact exec_of_address_error hready hrm
      (checkedAddress_of_stop haddr (operandStop_of_sideEffect (touchesSideEffect_true.2 hside)))

end Sys2Proof.Proofs

/-! # Proofs: decoding what the encoder writes

Each decoding function undoes its part of the encoder: the legacy prefixes, the REX and payload bytes, ModRM,
SIB and displacement. -/

namespace Sys2Proof

/-! ### Register numbers and their fields (R59) -/

theorem gregOf_gHigh_gLow (r : GReg) : gregOf (gHigh r) (gLow r) = r := by revert r; decide

theorem vregOf_vLow (r : VReg) : vregOf (r.getLsbD 4) (r.getLsbD 3) (vLow r) = r := by revert r; decide

theorem vregOfVvvv_extractLsb' (r : VReg) : vregOfVvvv (r.getLsbD 4) (r.extractLsb' 0 4) = r := by revert r; decide

/-- A number below `2^i` has no bit `i`. -/
theorem getLsbD_of_toNat_lt {w i : Nat} {r : BitVec w} (h : r.toNat < 2 ^ i) : r.getLsbD i = false :=
  Nat.testBit_lt_two_pow h

theorem getLsbD_of_toNat_lt_eight {w : Nat} {r : BitVec w} (h : r.toNat < 8) :
    r.getLsbD 3 = false ∧ r.getLsbD 4 = false :=
  ⟨getLsbD_of_toNat_lt h, getLsbD_of_toNat_lt (h.trans (by decide))⟩

/-! ### The legacy prefixes (R56) -/

theorem prefixOf_byte (p : Prefix) : prefixOf p.byte = some p := by
  cases p with
  | seg σ => cases σ <;> rfl
  | _ => rfl

/-- The bytes of legacy prefixes are read as these prefixes, up to the first byte that is none. -/
theorem takePrefixes_map_byte {b : Byte} (hb : prefixOf b = none) (pfx : List Prefix) (tail : List Byte) :
    takePrefixes (pfx.map Prefix.byte ++ b :: tail) = (pfx, b :: tail) := by
  induction pfx with
  | nil => simp [takePrefixes, hb]
  | cons p pfx ih => simp [takePrefixes, prefixOf_byte, ih]

section decode

variable {mode64 : Bool} {bs tail : List Byte} {pfx : List Prefix}

/-! ### The encoding that the first byte after the prefixes names (R64) -/

theorem decode_legacy (h : takePrefixes bs = (pfx, 0x0F#8 :: tail)) :
    decode mode64 bs = decodeLegacy mode64 pfx none tail := by simp [decode, h]

theorem decode_vex2 (h : takePrefixes bs = (pfx, 0xC5#8 :: tail)) :
    decode mode64 bs = decodeVex2 mode64 pfx tail := by simp [decode, h]

theorem decode_vex3 (h : takePrefixes bs = (pfx, 0xC4#8 :: tail)) :
    decode mode64 bs = decodeVex3 mode64 pfx tail := by simp [decode, h]

theorem decode_evex (h : takePrefixes bs = (pfx, 0x62#8 :: tail)) :
    decode mode64 bs = decodeEvex mode64 pfx tail := by simp [decode, h]

/-- A REX byte begins none of the other encodings and `takePrefixes` stops at it. -/
theorem rex_ne {rex : Byte} (hrex : field rex 4 4 = 4#4) :
    rex ≠ 0x0F#8 ∧ rex ≠ 0xC5#8 ∧ rex ≠ 0xC4#8 ∧ rex ≠ 0x62#8 ∧ prefixOf rex = none := by
  revert rex; decide

theorem decode_rex {rex : Byte} (hrex : field rex 4 4 = 4#4) (h : takePrefixes bs = (pfx, rex :: tail)) :
    decode true bs = decodeRex pfx rex tail := by
  obtain ⟨hlegacy, hvex2, hvex3, hevex, -⟩ := rex_ne hrex
  simp [decode, h, hlegacy, hvex2, hvex3, hevex, hrex]

end decode

/-! ### ModRM, SIB and displacement (R54, R55) -/

section modrm

variable (mod : BitVec 2) (reg rm : BitVec 3)

/-- The three fields of a ModRM or SIB byte. -/
theorem field_modrm_mod : field (mod ++ reg ++ rm) 6 2 = mod := by revert mod reg rm; decide

theorem field_modrm_reg : field (mod ++ reg ++ rm) 3 3 = reg := by revert mod reg rm; decide

theorem field_modrm_rm : field (mod ++ reg ++ rm) 0 3 = rm := by revert mod reg rm; decide

end modrm

theorem takeDisp32_bytes32 (d : BitVec 32) (rest : List Byte) : takeDisp32 (bytes32 d ++ rest) = .ok (d, rest) := by
  have hbytes : d.extractLsb' 24 8 ++ d.extractLsb' 16 8 ++ d.extractLsb' 8 8 ++ d.extractLsb' 0 8 = d := by
    rw [BitVec.extractLsb'_append_extractLsb'_eq_extractLsb' (h := (rfl : 24 = 16 + 8)),
      BitVec.extractLsb'_append_extractLsb'_eq_extractLsb' (h := (rfl : 16 = 8 + 8)),
      BitVec.extractLsb'_append_extractLsb'_eq_extractLsb' (h := (rfl : 8 = 0 + 8))]
    simp
  simp only [bytes32, List.cons_append, List.nil_append, takeDisp32]
  rw [hbytes]

theorem takeDisp_bytes (disp : Disp) (rest : List Byte) :
    takeDisp disp.mod (disp.bytes ++ rest) = .ok (disp, rest) := by
  cases disp with
  | none => rfl
  | disp8 d => rfl
  | disp32 d => simp [takeDisp, Disp.mod, Disp.bytes, takeDisp32_bytes32]

theorem indexOf_indexLow {g : Nat} {index : Option GReg} (h : indexOk g index = true) :
    indexOf (indexHigh index) (indexLow index) = index := by
  cases index with
  | none => rfl
  | some r =>
    have hr : r ≠ 4#4 := by simp [indexOk] at h; exact h.2
    simp [indexOf, indexHigh, indexLow, gregOf_gHigh_gLow, hr]

theorem Disp.mod_eq_zero {disp : Disp} : disp.mod = 0#2 ↔ disp = .none := by cases disp <;> simp [Disp.mod]

theorem Disp.mod_ne_three (disp : Disp) : disp.mod ≠ 3#2 := by cases disp <;> simp [Disp.mod]

/-- An admitted base register is not the one that `mod = 00` gives another meaning (R55). -/
theorem not_noBase_of_baseOk {g : Nat} {r : GReg} {disp : Disp} (h : baseOk g r disp = true) :
    ¬(disp.mod = 0#2 ∧ gLow r = 5#3) := by
  rintro ⟨hmod, hlow⟩
  simp [baseOk, hlow, Disp.mod_eq_zero.1 hmod] at h

theorem takeSib_sib {g : Nat} {scale : BitVec 2} {index : Option GReg} {r : GReg} {disp : Disp}
    (hindex : indexOk g index = true) (hbase : baseOk g r disp = true) (rest : List Byte) :
    takeSib disp.mod (indexHigh index) (gHigh r) ((scale ++ indexLow index ++ gLow r) :: (disp.bytes ++ rest)) =
      .ok (.sib scale index r disp, rest) := by
  simp only [takeSib, field_modrm_mod, field_modrm_reg, field_modrm_rm, if_neg (not_noBase_of_baseOk hbase),
    takeDisp_bytes, indexOf_indexLow hindex, gregOf_gHigh_gLow]

theorem takeSib_sibNoBase {g : Nat} {scale : BitVec 2} {index : Option GReg} (hindex : indexOk g index = true)
    (b : Bool) (d : BitVec 32) (rest : List Byte) :
    takeSib 0#2 (indexHigh index) b ((scale ++ indexLow index ++ 5#3) :: (bytes32 d ++ rest)) =
      .ok (.sibNoBase scale index d, rest) := by
  simp only [takeSib, field_modrm_mod, field_modrm_reg, field_modrm_rm, true_and, if_true, takeDisp32_bytes32,
    indexOf_indexLow hindex]

theorem takeMem_base {g : Nat} {r : GReg} {disp : Disp} (hbase : baseOk g r disp = true) (hsib : gLow r ≠ 4#3)
    (x : Bool) (rest : List Byte) :
    takeMem disp.mod (gLow r) x (gHigh r) (disp.bytes ++ rest) = .ok (.base r disp, rest) := by
  simp only [takeMem, if_neg hsib, if_neg (not_noBase_of_baseOk hbase), takeDisp_bytes, gregOf_gHigh_gLow]

theorem takeMem_disp32 (x b : Bool) (d : BitVec 32) (rest : List Byte) :
    takeMem 0#2 5#3 x b (bytes32 d ++ rest) = .ok (.disp32 d, rest) := by
  simp [takeMem, takeDisp32_bytes32]

section operands

variable {mode64 addr67 hi x b : Bool} {mod : BitVec 2} {reg low : BitVec 3} {imm : Byte} {bs rest : List Byte}

theorem takeOperands_reg {r : VReg} (hr : vregOf hi b (vLow r) = r) :
    takeOperands mode64 addr67 hi x b ((3#2 ++ reg ++ vLow r) :: imm :: rest) = .ok ((reg, .reg r, imm), rest) := by
  simp only [takeOperands, takeRm, field_modrm_mod, field_modrm_reg, field_modrm_rm, if_true, hr]

theorem takeOperands_mem {m : MemOperand} (haddr : (!mode64 && addr67) = false) (hmod : mod ≠ 3#2)
    (h : takeMem mod low x b bs = .ok (m, imm :: rest)) :
    takeOperands mode64 addr67 hi x b ((mod ++ reg ++ low) :: bs) = .ok ((reg, .mem m, imm), rest) := by
  simp only [takeOperands, takeRm, field_modrm_mod, field_modrm_reg, field_modrm_rm, if_neg hmod, haddr, h,
    Bool.false_eq_true, if_false]

/-- The decoder reads back the operands the encoder wrote, given the extension bits of SRC2 and, for a register, bit 4
of its number. -/
theorem takeOperands_bytes {v g : Nat} {rm : Rm} (hwf : rm.wf v g = true)
    (haddr : (mode64 || !addr67 || rm.isReg) = true) (hhi : ∀ r, rm = .reg r → hi = r.getLsbD 4) (reg : BitVec 3)
    (imm : Byte) (rest : List Byte) :
    takeOperands mode64 addr67 hi rm.x rm.b (rm.bytes reg ++ imm :: rest) = .ok ((reg, rm, imm), rest) := by
  cases rm with
  | reg r => exact takeOperands_reg (by rw [hhi r rfl]; exact vregOf_vLow r)
  | mem m =>
    have hsize : (!mode64 && addr67) = false := by
      cases mode64 with
      | true => rfl
      | false => simpa [Rm.isReg] using haddr
    cases m with
    | base r disp =>
      obtain ⟨hbase, hsib⟩ : baseOk g r disp = true ∧ gLow r ≠ 4#3 := by simpa [Rm.wf, MemOperand.wf] using hwf
      exact takeOperands_mem hsize disp.mod_ne_three (takeMem_base hbase hsib _ _)
    | disp32 d => exact takeOperands_mem hsize (by decide) (takeMem_disp32 _ _ d _)
    | sib scale index r disp =>
      obtain ⟨hindex, hbase⟩ : indexOk g index = true ∧ baseOk g r disp = true := by
        simpa [Rm.wf, MemOperand.wf] using hwf
      exact takeOperands_mem hsize disp.mod_ne_three (takeSib_sib hindex hbase _)
    | sibNoBase scale index d => exact takeOperands_mem hsize (by decide) (takeSib_sibNoBase hwf _ d _)

end operands

/-! ### The extension bits of SRC2 (R59) -/

theorem gHigh_of_baseOk {r : GReg} {disp : Disp} (h : baseOk 8 r disp = true) : gHigh r = false :=
  getLsbD_of_toNat_lt (i := 3) (baseOk_lt h)

theorem indexHigh_of_indexOk {index : Option GReg} (h : indexOk 8 index = true) : indexHigh index = false := by
  cases index with
  | none => rfl
  | some r => exact getLsbD_of_toNat_lt (i := 3) (indexOk_lt h r rfl)

/-- An operand whose registers are all below 8 needs no extension bit. -/
theorem Rm.x_b_of_wf_eight {rm : Rm} (h : rm.wf 8 8 = true) : rm.x = false ∧ rm.b = false := by
  cases rm with
  | reg r => exact (getLsbD_of_toNat_lt_eight (of_decide_eq_true h)).symm
  | mem m =>
    cases m with
    | base r disp =>
      simp only [Rm.wf, MemOperand.wf, Bool.and_eq_true] at h
      exact ⟨rfl, gHigh_of_baseOk h.1⟩
    | disp32 d => exact ⟨rfl, rfl⟩
    | sib scale index r disp =>
      simp only [Rm.wf, MemOperand.wf, Bool.and_eq_true] at h
      exact ⟨indexHigh_of_indexOk h.1, gHigh_of_baseOk h.2⟩
    | sibNoBase scale index d => exact ⟨indexHigh_of_indexOk h, rfl⟩

/-- The extension bits of an operand whose registers the mode has: outside 64-bit mode they are 0. -/
theorem Rm.x_b_of_wf {mode64 : Bool} {v : Nat} {rm : Rm} (hv : mode64 = false → v = 8)
    (h : rm.wf v (vexRegs mode64) = true) : mode64 = false → rm.x = false ∧ rm.b = false := by
  rintro rfl
  rw [hv rfl] at h
  exact Rm.x_b_of_wf_eight h

/-! ### The REX byte and the payload bytes of VEX and EVEX (R56 to R58) -/

theorem field_eq_three_iff {p : Byte} {lo : Nat} :
    field p lo 2 = 3#2 ↔ bitOf p lo = true ∧ bitOf p (lo + 1) = true := by
  rw [show 3#2 = BitVec.allOnes 2 from rfl, field, extractLsb'_eq_allOnes_iff]
  simp [Fin.forall_fin_succ, bitOf]

theorem bitOf_of_field {p : Byte} {v : BitVec 4} {lo : Nat} (h : field p lo 4 = v) :
    bitOf p (lo + 3) = v.getLsbD 3 := by
  rw [← h]; simp [field, bitOf]

theorem rexByte_fields (d : VReg) (rm : Rm) :
    field (rexByte d rm) 4 4 = 4#4 ∧ bitOf (rexByte d rm) 2 = d.getLsbD 3 ∧ bitOf (rexByte d rm) 1 = rm.x ∧
      bitOf (rexByte d rm) 0 = rm.b := by
  unfold rexByte
  generalize d.getLsbD 3 = r, rm.x = x, rm.b = b
  revert r x b; decide

/-- A byte laid out as `R vvvv L pp` (R57). -/
theorem vexByte_fields {p : Byte} {r l : Bool} {vvvv : BitVec 4}
    (hp : p = BitVec.ofBool r ++ vvvv ++ BitVec.ofBool l ++ 1#2) :
    bitOf p 7 = r ∧ field p 3 4 = vvvv ∧ bitOf p 2 = l ∧ field p 0 2 = 1#2 := by
  subst hp
  revert r vvvv l; decide

theorem vex2Byte_fields (d s1 : VReg) (l : Bool) :
    bitOf (vex2Byte d s1 l) 7 = !d.getLsbD 3 ∧ field (vex2Byte d s1 l) 3 4 = ~~~ s1.extractLsb' 0 4 ∧
      bitOf (vex2Byte d s1 l) 2 = l ∧ field (vex2Byte d s1 l) 0 2 = 1#2 := vexByte_fields rfl

theorem vex3Byte2_fields (s1 : VReg) (l : Bool) :
    field (vex3Byte2 s1 l) 3 4 = ~~~ s1.extractLsb' 0 4 ∧ bitOf (vex3Byte2 s1 l) 2 = l ∧
      field (vex3Byte2 s1 l) 0 2 = 1#2 := (vexByte_fields (r := false) rfl).2

theorem evexP1_fields (s1 : VReg) :
    bitOf (evexP1 s1) 7 = true ∧ field (evexP1 s1) 3 4 = ~~~ s1.extractLsb' 0 4 ∧ bitOf (evexP1 s1) 2 = true ∧
      field (evexP1 s1) 0 2 = 1#2 := by
  unfold evexP1
  generalize ~~~ s1.extractLsb' 0 4 = vvvv
  revert vvvv; decide

theorem vex3Byte1_fields (d : VReg) (rm : Rm) :
    bitOf (vex3Byte1 d rm) 7 = !d.getLsbD 3 ∧ bitOf (vex3Byte1 d rm) 6 = !rm.x ∧ bitOf (vex3Byte1 d rm) 5 = !rm.b ∧
      field (vex3Byte1 d rm) 0 5 = 1#5 := by
  unfold vex3Byte1
  generalize d.getLsbD 3 = r, rm.x = x, rm.b = b
  revert r x b; decide

theorem evexP0_fields (d : VReg) (rm : Rm) :
    bitOf (evexP0 d rm) 7 = !d.getLsbD 3 ∧ bitOf (evexP0 d rm) 6 = !rm.x ∧ bitOf (evexP0 d rm) 5 = !rm.b ∧
      bitOf (evexP0 d rm) 4 = !d.getLsbD 4 ∧ field (evexP0 d rm) 2 2 = 0#2 ∧ field (evexP0 d rm) 0 2 = 1#2 := by
  unfold evexP0
  generalize d.getLsbD 3 = r, rm.x = x, rm.b = b, d.getLsbD 4 = r'
  revert r x b r'; decide

theorem evexP2_fields (z : Bool) (ll : BitVec 2) (b : Bool) (s1 : VReg) (k : BitVec 3) :
    bitOf (evexP2 z ll b s1 k) 7 = z ∧ field (evexP2 z ll b s1 k) 5 2 = ll ∧ bitOf (evexP2 z ll b s1 k) 4 = b ∧
      bitOf (evexP2 z ll b s1 k) 3 = !s1.getLsbD 4 ∧ field (evexP2 z ll b s1 k) 0 3 = k := by
  unfold evexP2
  generalize s1.getLsbD 4 = v'
  revert z ll b v' k; decide

/-! ### Register numbers from the bits of the prefixes (R59) -/

theorem vregOf_false_vLow {d : VReg} (h : d.toNat < 16) : vregOf false (d.getLsbD 3) (vLow d) = d := by
  rw [← getLsbD_of_toNat_lt (i := 4) h, vregOf_vLow]

theorem vregOf_false_false_vLow {d : VReg} (h : d.toNat < 8) : vregOf false false (vLow d) = d := by
  have hd := vregOf_false_vLow (h.trans (by decide : 8 < 16))
  rwa [(getLsbD_of_toNat_lt_eight h).1] at hd

theorem vregOfVvvv_false_extractLsb' {r : VReg} (h : r.toNat < 16) : vregOfVvvv false (r.extractLsb' 0 4) = r := by
  rw [← getLsbD_of_toNat_lt (i := 4) h, vregOfVvvv_extractLsb']

section mode

variable {mode64 : Bool} {r : VReg}

theorem vexRegs_le_sixteen (mode64 : Bool) : vexRegs mode64 ≤ 16 := by cases mode64 <;> decide

theorem toNat_lt_of_lt_vexRegs (h : r.toNat < vexRegs mode64) : r.toNat < 16 := h.trans_le (vexRegs_le_sixteen mode64)

theorem high_bit_of_lt_vexRegs (h : r.toNat < vexRegs mode64) : mode64 = false → r.getLsbD 3 = false := by
  rintro rfl
  exact (getLsbD_of_toNat_lt_eight h).1

theorem high_bits_of_lt_evexRegs (h : r.toNat < evexRegs mode64) :
    mode64 = false → r.getLsbD 3 = false ∧ r.getLsbD 4 = false := by
  rintro rfl
  exact getLsbD_of_toNat_lt_eight h

end mode

/-! ### What the encodings without bit 4 of SRC2 and with a masked bit `B` read -/

/-- A legacy or VEX form gives SRC2 no bit 4, and a register below 16 has none. -/
theorem hi_false_of_wf {v g : Nat} {rm : Rm} (h : rm.wf v g = true) (hv : v ≤ 16) :
    ∀ r, rm = .reg r → false = r.getLsbD 4 := by
  rintro r rfl
  exact (getLsbD_of_toNat_lt (i := 4) ((of_decide_eq_true h).trans_le hv)).symm

/-- The bit `B` that is forced to 0 outside 64-bit mode is 0 there (R59). -/
theorem and_eq_of_imp {mode64 b : Bool} (h : mode64 = false → b = false) : (mode64 && b) = b := by
  cases mode64 with
  | true => rfl
  | false => exact (h rfl).symm

/-! ### Each encoding, from the fields of its bytes

The converses of the inversion lemmas of the decoding functions. -/

section fields

variable {mode64 : Bool} {pfx : List Prefix} {tail rest : List Byte} {reg : BitVec 3} {rm : Rm} {imm : Byte} {i : Instr}

theorem admitLen_of_le (h : i.len ≤ 15) : admitLen i rest = .ok (i, rest) := if_pos h

theorem decodeLegacy_of_operands (hpfx : legacyPrefixProblem pfx = none)
    (hops : takeOperands mode64 (pfx.contains .addrSize) false false false tail = .ok ((reg, rm, imm), rest))
    (hi : i = .shufpd pfx (vregOf false false reg) rm imm) (hlen : i.len ≤ 15) :
    decodeLegacy mode64 pfx none (0xC6#8 :: tail) = .ok (i, rest) := by
  subst hi
  simp only [decodeLegacy, ne_eq, not_true_eq_false, if_false, hpfx, hops, admitLen_of_le hlen]

theorem decodeLegacy_rex_of_operands {rex : Byte} (hpfx : legacyPrefixProblem pfx = none)
    (hops : takeOperands mode64 (pfx.contains .addrSize) false (bitOf rex 1) (bitOf rex 0) tail =
      .ok ((reg, rm, imm), rest))
    (hi : i = .shufpdRex pfx (vregOf false (bitOf rex 2) reg) rm imm) (hlen : i.len ≤ 15) :
    decodeLegacy mode64 pfx (some rex) (0xC6#8 :: tail) = .ok (i, rest) := by
  subst hi
  simp only [decodeLegacy, ne_eq, not_true_eq_false, if_false, hpfx, hops, admitLen_of_le hlen]

theorem decodeVex2_of_fields {p : Byte} (hpfx : vexPrefixProblem pfx = none)
    (hmode : mode64 = false → field p 6 2 = 3#2) (hpp : field p 0 2 = 1#2)
    (hops : takeOperands mode64 (pfx.contains .addrSize) false false false tail = .ok ((reg, rm, imm), rest))
    (hi : i = (if bitOf p 2 then Instr.vshufpdVex2L256 else Instr.vshufpdVex2L128) pfx (vregOf false (!bitOf p 7) reg)
      (vregOfVvvv false (~~~ field p 3 4)) rm imm) (hlen : i.len ≤ 15) :
    decodeVex2 mode64 pfx (p :: 0xC6#8 :: tail) = .ok (i, rest) := by
  have hhead : ¬((mode64 = false ∧ field p 6 2 ≠ 3#2) ∨ field p 0 2 ≠ 1#2 ∨ 0xC6#8 ≠ 0xC6#8) := by
    simpa [hpp] using hmode
  subst hi
  simp only [decodeVex2, if_neg hhead, hpfx, hops]
  split at hlen <;> next hl => simp only [hl, if_true, if_false, admitLen_of_le hlen, Bool.false_eq_true]

theorem decodeVex3_of_fields {p1 p2 : Byte} (hpfx : vexPrefixProblem pfx = none)
    (hmode : mode64 = false → field p1 6 2 = 3#2 ∧ bitOf p2 6 = true) (hmap : field p1 0 5 = 1#5)
    (hpp : field p2 0 2 = 1#2)
    (hops : takeOperands mode64 (pfx.contains .addrSize) false (!bitOf p1 6) (mode64 && !bitOf p1 5) tail =
      .ok ((reg, rm, imm), rest))
    (hi : i = (if bitOf p2 2 then Instr.vshufpdVex3L256 else Instr.vshufpdVex3L128) pfx
      (vregOf false (!bitOf p1 7) reg) (vregOfVvvv false (~~~ field p2 3 4)) rm imm) (hlen : i.len ≤ 15) :
    decodeVex3 mode64 pfx (p1 :: p2 :: 0xC6#8 :: tail) = .ok (i, rest) := by
  have hhead : ¬((mode64 = false ∧ field p1 6 2 ≠ 3#2) ∨ field p1 0 5 ≠ 1#5 ∨ field p2 0 2 ≠ 1#2 ∨
      0xC6#8 ≠ 0xC6#8) := by
    simpa [hmap, hpp] using fun hm => (hmode hm).1
  have hvvvv : (!mode64 && !bitOf p2 6) = false := by simpa using fun hm => (hmode hm).2
  subst hi
  simp only [decodeVex3, if_neg hhead, hpfx, hvvvv, hops, Bool.false_eq_true, if_false]
  split at hlen <;> next hl => simp only [hl, if_true, if_false, admitLen_of_le hlen, Bool.false_eq_true]

theorem decodeEvex_of_fields {p0 p1 p2 : Byte} (hpfx : vexPrefixProblem pfx = none)
    (hmode : mode64 = false → field p0 6 2 = 3#2) (hmap : field p0 0 2 = 1#2) (hpp : field p1 0 2 = 1#2)
    (hev : evexProblem mode64 p0 p1 p2 = none)
    (hops : takeOperands mode64 (pfx.contains .addrSize) (!bitOf p0 6) (!bitOf p0 6) (mode64 && !bitOf p0 5) tail =
      .ok ((reg, rm, imm), rest))
    (hbc : (bitOf p2 4 && rm.isReg) = false)
    (hi : i = evexForm (field p2 5 2) pfx (vregOf (!bitOf p0 4) (!bitOf p0 7) reg) (field p2 0 3) (bitOf p2 7)
      (vregOfVvvv (!bitOf p2 3) (~~~ field p1 3 4)) rm (bitOf p2 4) imm) (hlen : i.len ≤ 15) :
    decodeEvex mode64 pfx (p0 :: p1 :: p2 :: 0xC6#8 :: tail) = .ok (i, rest) := by
  have hhead : ¬((mode64 = false ∧ field p0 6 2 ≠ 3#2) ∨ field p0 0 2 ≠ 1#2 ∨ field p1 0 2 ≠ 1#2 ∨
      0xC6#8 ≠ 0xC6#8) := by
    simpa [hmap, hpp] using hmode
  subst hi
  simp only [decodeEvex, if_neg hhead, hpfx, hev, hops, hbc, Bool.false_eq_true, if_false, admitLen_of_le hlen]

end fields

/-! ### Each encoding reads back what the encoder wrote -/

/-- The top bit of the inverted `vvvv` of a register number. -/
theorem not_extractLsb'_getLsbD_three (r : VReg) : (~~~ r.extractLsb' 0 4).getLsbD 3 = !r.getLsbD 3 := by
  revert r; decide

section encodings

variable {mode64 : Bool} {pfx : List Prefix} {d s1 : VReg} {rm : Rm} {imm : Byte}

theorem decodeLegacy_encode (hpfx : legacyPrefixProblem pfx = none) (hd : d.toNat < 8) (hrm : rm.wf 8 8 = true)
    (haddr : (mode64 || !pfx.contains .addrSize || rm.isReg) = true) (hlen : (Instr.shufpd pfx d rm imm).len ≤ 15)
    (rest : List Byte) :
    decodeLegacy mode64 pfx none (0xC6#8 :: (rm.bytes (vLow d) ++ imm :: rest)) =
      .ok (.shufpd pfx d rm imm, rest) := by
  obtain ⟨hx, hb⟩ := Rm.x_b_of_wf_eight hrm
  have hops := takeOperands_bytes (hi := false) hrm haddr (hi_false_of_wf hrm (by decide)) (vLow d) imm rest
  rw [hx, hb] at hops
  exact decodeLegacy_of_operands hpfx hops (by rw [vregOf_false_false_vLow hd]) hlen

theorem decodeLegacy_rex_encode (hpfx : legacyPrefixProblem pfx = none) (hd : d.toNat < 16)
    (hrm : rm.wf 16 16 = true) (hlen : (Instr.shufpdRex pfx d rm imm).len ≤ 15) (rest : List Byte) :
    decodeLegacy true pfx (some (rexByte d rm)) (0xC6#8 :: (rm.bytes (vLow d) ++ imm :: rest)) =
      .ok (.shufpdRex pfx d rm imm, rest) := by
  obtain ⟨-, hr, hx, hb⟩ := rexByte_fields d rm
  have hops := takeOperands_bytes (mode64 := true) (addr67 := pfx.contains .addrSize) (hi := false) hrm rfl
    (hi_false_of_wf hrm (by decide)) (vLow d) imm rest
  exact decodeLegacy_rex_of_operands hpfx (by rw [hx, hb, hops]) (by rw [hr, vregOf_false_vLow hd]) hlen

theorem decodeVex2_encode (l : Bool) (hpfx : vexPrefixProblem pfx = none) (hd : d.toNat < vexRegs mode64)
    (hs1 : s1.toNat < vexRegs mode64) (hrm : rm.wf 8 8 = true)
    (haddr : (mode64 || !pfx.contains .addrSize || rm.isReg) = true)
    (hlen : ((if l then Instr.vshufpdVex2L256 else Instr.vshufpdVex2L128) pfx d s1 rm imm).len ≤ 15)
    (rest : List Byte) :
    decodeVex2 mode64 pfx (vex2Byte d s1 l :: 0xC6#8 :: (rm.bytes (vLow d) ++ imm :: rest)) =
      .ok ((if l then Instr.vshufpdVex2L256 else Instr.vshufpdVex2L128) pfx d s1 rm imm, rest) := by
  obtain ⟨hr, hvvvv, hl, hpp⟩ := vex2Byte_fields d s1 l
  obtain ⟨hx, hb⟩ := Rm.x_b_of_wf_eight hrm
  have hops := takeOperands_bytes (hi := false) hrm haddr (hi_false_of_wf hrm (by decide)) (vLow d) imm rest
  rw [hx, hb] at hops
  have hmode : mode64 = false → field (vex2Byte d s1 l) 6 2 = 3#2 := fun hm => by
    simp only [field_eq_three_iff, hr, bitOf_of_field hvvvv, not_extractLsb'_getLsbD_three,
      high_bit_of_lt_vexRegs hd hm, high_bit_of_lt_vexRegs hs1 hm, Bool.not_false, and_self]
  exact decodeVex2_of_fields hpfx hmode hpp hops
    (by rw [hr, hvvvv, hl, Bool.not_not, BitVec.not_not, vregOf_false_vLow (toNat_lt_of_lt_vexRegs hd),
      vregOfVvvv_false_extractLsb' (toNat_lt_of_lt_vexRegs hs1)]) hlen

theorem decodeVex3_encode (l : Bool) (hpfx : vexPrefixProblem pfx = none) (hd : d.toNat < vexRegs mode64)
    (hs1 : s1.toNat < vexRegs mode64) (hrm : rm.wf (vexRegs mode64) (vexRegs mode64) = true)
    (haddr : (mode64 || !pfx.contains .addrSize || rm.isReg) = true)
    (hlen : ((if l then Instr.vshufpdVex3L256 else Instr.vshufpdVex3L128) pfx d s1 rm imm).len ≤ 15)
    (rest : List Byte) :
    decodeVex3 mode64 pfx (vex3Byte1 d rm :: vex3Byte2 s1 l :: 0xC6#8 :: (rm.bytes (vLow d) ++ imm :: rest)) =
      .ok ((if l then Instr.vshufpdVex3L256 else Instr.vshufpdVex3L128) pfx d s1 rm imm, rest) := by
  obtain ⟨hr, hx, hb, hmap⟩ := vex3Byte1_fields d rm
  obtain ⟨hvvvv, hl, hpp⟩ := vex3Byte2_fields s1 l
  have hbits : mode64 = false → rm.x = false ∧ rm.b = false := Rm.x_b_of_wf (fun hm => by rw [hm]; rfl) hrm
  have hops := takeOperands_bytes (hi := false) hrm haddr (hi_false_of_wf hrm (vexRegs_le_sixteen mode64)) (vLow d) imm
    rest
  have hmode : mode64 = false → field (vex3Byte1 d rm) 6 2 = 3#2 ∧ bitOf (vex3Byte2 s1 l) 6 = true := fun hm => by
    simp only [field_eq_three_iff, hr, hx, hbits hm, bitOf_of_field hvvvv, not_extractLsb'_getLsbD_three,
      high_bit_of_lt_vexRegs hd hm, high_bit_of_lt_vexRegs hs1 hm, Bool.not_false, and_self]
  exact decodeVex3_of_fields hpfx hmode hmap hpp
    (by rw [hx, hb, Bool.not_not, Bool.not_not, and_eq_of_imp fun hm => (hbits hm).2, hops])
    (by rw [hr, hvvvv, hl, Bool.not_not, BitVec.not_not, vregOf_false_vLow (toNat_lt_of_lt_vexRegs hd),
      vregOfVvvv_false_extractLsb' (toNat_lt_of_lt_vexRegs hs1)]) hlen

theorem decodeEvex_encode {k : BitVec 3} {z b : Bool} {ll : BitVec 2} (hll : ll ≠ 3#2)
    (hpfx : vexPrefixProblem pfx = none) (hd : d.toNat < evexRegs mode64) (hs1 : s1.toNat < evexRegs mode64)
    (hrm : rm.wf (evexRegs mode64) (vexRegs mode64) = true) (hevex : evexOk k z rm b = true)
    (haddr : (mode64 || !pfx.contains .addrSize || rm.isReg) = true)
    (hlen : (evexForm ll pfx d k z s1 rm b imm).len ≤ 15) (rest : List Byte) :
    decodeEvex mode64 pfx
        (evexP0 d rm :: evexP1 s1 :: evexP2 z ll b s1 k :: 0xC6#8 :: (rm.bytes (vLow d) ++ imm :: rest)) =
      .ok (evexForm ll pfx d k z s1 rm b imm, rest) := by
  obtain ⟨hr, hx, hb, hr', hres, hmap⟩ := evexP0_fields d rm
  obtain ⟨hw, hvvvv, hone, hpp⟩ := evexP1_fields s1
  obtain ⟨hz, hllf, hbc, hv', hk⟩ := evexP2_fields z ll b s1 k
  have hbits : mode64 = false → rm.x = false ∧ rm.b = false := Rm.x_b_of_wf (fun hm => by rw [hm]; rfl) hrm
  obtain ⟨hbreg, hzmask⟩ : (b && rm.isReg) = false ∧ (z && k == 0#3) = false := by
    simpa only [evexOk, Bool.and_eq_true, Bool.not_eq_true'] using hevex
  have hops := takeOperands_bytes (hi := rm.x) hrm haddr (fun r hreg => by rw [hreg]; rfl) (vLow d) imm rest
  have hmode : mode64 = false → field (evexP0 d rm) 6 2 = 3#2 := fun hm => by
    simp only [field_eq_three_iff, hr, hx, hbits hm, high_bits_of_lt_evexRegs hd hm, Bool.not_false, and_self]
  have hev : evexProblem mode64 (evexP0 d rm) (evexP1 s1) (evexP2 z ll b s1 k) = none := by
    refine evexProblem_none.2 ⟨⟨hres, hone⟩, hw, by rwa [hllf], ?_, fun hm => ?_⟩
    · rw [hz, hk]
      simpa using hzmask
    · simp only [hr', hv', bitOf_of_field hvvvv, not_extractLsb'_getLsbD_three, high_bits_of_lt_evexRegs hd hm,
        high_bits_of_lt_evexRegs hs1 hm, Bool.not_false, and_self]
  exact decodeEvex_of_fields hpfx hmode hmap hpp hev
    (by rw [hx, hb, Bool.not_not, Bool.not_not, and_eq_of_imp fun hm => (hbits hm).2, hops])
    (by rw [hbc, hbreg])
    (by rw [hr, hr', hvvvv, hv', hz, hllf, hk, hbc, Bool.not_not, Bool.not_not, Bool.not_not, BitVec.not_not,
      vregOf_vLow, vregOfVvvv_extractLsb']) hlen

end encodings

theorem encode_append (i : Instr) (rest : List Byte) :
    encode i ++ rest = i.pfx.map Prefix.byte ++ (i.head ++ (i.src2.bytes (vLow i.dest) ++ i.imm8 :: rest)) := by
  simp [encode]

/-- Decoding undoes encoding: the prefixes are read up to the first byte of the head, which selects the encoding. -/
theorem decode_encode {mode64 : Bool} {i : Instr} (h : i.wf mode64 = true) (rest : List Byte) :
    decode mode64 (encode i ++ rest) = .ok (i, rest) := by
  obtain ⟨hlen, haddr, hok⟩ := wf_iff.1 h
  rw [encode_append]
  cases i <;> simp only [Instr.operandsOk, Bool.and_eq_true, beq_iff_eq, decide_eq_true_eq] at hok
  case shufpd =>
    obtain ⟨⟨hpfx, hd⟩, hrm⟩ := hok
    exact (decode_legacy (takePrefixes_map_byte rfl _ _)).trans (decodeLegacy_encode hpfx hd hrm haddr hlen rest)
  case shufpdRex pfx d rm imm =>
    obtain ⟨⟨⟨rfl, hpfx⟩, hd⟩, hrm⟩ := hok
    have hrex := (rexByte_fields d rm).1
    obtain ⟨-, -, -, -, hnone⟩ := rex_ne hrex
    exact (decode_rex hrex (takePrefixes_map_byte hnone _ _)).trans (decodeLegacy_rex_encode hpfx hd hrm hlen rest)
  case vshufpdVex2L128 | vshufpdVex2L256 =>
    obtain ⟨⟨⟨hpfx, hd⟩, hs1⟩, hrm⟩ := hok
    exact (decode_vex2 (takePrefixes_map_byte rfl _ _)).trans
      (decodeVex2_encode _ hpfx hd hs1 hrm haddr (by exact hlen) rest)
  case vshufpdVex3L128 | vshufpdVex3L256 =>
    obtain ⟨⟨⟨hpfx, hd⟩, hs1⟩, hrm⟩ := hok
    exact (decode_vex3 (takePrefixes_map_byte rfl _ _)).trans
      (decodeVex3_encode _ hpfx hd hs1 hrm haddr (by exact hlen) rest)
  case vshufpdEvex128 | vshufpdEvex256 | vshufpdEvex512 =>
    obtain ⟨⟨⟨⟨hpfx, hd⟩, hs1⟩, hrm⟩, hevex⟩ := hok
    exact (decode_evex (takePrefixes_map_byte rfl _ _)).trans
      (decodeEvex_encode (by decide) hpfx hd hs1 hrm hevex haddr (by exact hlen) rest)

end Sys2Proof

namespace Sys2Proof.Proofs

/-- Settles O1: the encoder's bytes are read back field by field. -/
theorem decodeInvertsEncode : Obligations.DecodeInvertsEncode := fun _ _ rest hwf => decode_encode hwf rest

end Sys2Proof.Proofs

/-! # Proofs: what a decoded instruction consumed, and which encodings are refused -/

namespace Sys2Proof

/-! ### The bytes consumed (R63) -/

/-- `rest` is what follows the first `n` bytes of `bs`. -/
def Consumes (n : Nat) (bs rest : List Byte) : Prop := ∃ used, used.length = n ∧ bs = used ++ rest

theorem Consumes.zero (bs : List Byte) : Consumes 0 bs bs := ⟨[], rfl, rfl⟩

theorem Consumes.cons {n : Nat} {bs rest : List Byte} (h : Consumes n bs rest) (b : Byte) :
    Consumes (n + 1) (b :: bs) rest := by
  obtain ⟨used, rfl, rfl⟩ := h
  exact ⟨b :: used, rfl, rfl⟩

theorem Consumes.append {n : Nat} {bs rest : List Byte} (h : Consumes n bs rest) (front : List Byte) :
    Consumes (front.length + n) (front ++ bs) rest := by
  obtain ⟨used, rfl, rfl⟩ := h
  exact ⟨front ++ used, by simp, by simp⟩

theorem Consumes.length_eq {n : Nat} {bs rest : List Byte} (h : Consumes n bs rest) : bs.length = n + rest.length := by
  obtain ⟨used, rfl, rfl⟩ := h
  simp

theorem Consumes.eq_drop {n : Nat} {bs rest : List Byte} (h : Consumes n bs rest) : rest = bs.drop n := by
  obtain ⟨used, rfl, rfl⟩ := h
  simp

section operands

variable {mod : BitVec 2} {low reg : BitVec 3} {x b hi mode64 addr67 : Bool} {bs rest : List Byte}

theorem takeDisp32_consumes {d : BitVec 32} (h : takeDisp32 bs = .ok (d, rest)) : Consumes 4 bs rest := by
  unfold takeDisp32 at h
  split at h
  · cases h
    exact ⟨[_, _, _, _], rfl, rfl⟩
  · cases h

theorem takeDisp_consumes {disp : Disp} (h : takeDisp mod bs = .ok (disp, rest)) : Consumes disp.len bs rest := by
  unfold takeDisp at h
  split at h
  · cases h
    exact .zero bs
  · split at h
    · cases h
      exact (Consumes.zero _).cons _
    · cases h
  · split at h
    · next hd =>
      cases h
      exact takeDisp32_consumes hd
    · cases h

theorem takeSib_consumes {m : MemOperand} (h : takeSib mod x b bs = .ok (m, rest)) :
    Consumes (Rm.mem m).len bs rest := by
  cases bs with
  | nil => cases h
  | cons sib bs =>
    simp only [takeSib] at h
    split at h
    · split at h
      · next hd =>
        cases h
        exact (takeDisp32_consumes hd).cons sib
      · cases h
    · split at h
      · next hd =>
        cases h
        rw [Rm.len, Nat.add_comm]
        exact (takeDisp_consumes hd).cons sib
      · cases h

theorem takeMem_consumes {m : MemOperand} (h : takeMem mod low x b bs = .ok (m, rest)) :
    Consumes (Rm.mem m).len bs rest := by
  unfold takeMem at h
  split at h
  · exact takeSib_consumes h
  · split at h
    · split at h
      · next hd =>
        cases h
        exact takeDisp32_consumes hd
      · cases h
    · split at h
      · next hd =>
        cases h
        exact takeDisp_consumes hd
      · cases h

theorem takeRm_consumes {rm : Rm} (h : takeRm mode64 addr67 hi x b mod low bs = .ok (rm, rest)) :
    Consumes rm.len bs rest := by
  unfold takeRm at h
  split at h
  · cases h
    exact .zero bs
  · split at h
    · cases h
    · split at h
      · next hm =>
        cases h
        exact takeMem_consumes hm
      · cases h

/-- ModRM, the bytes of the operand, and the immediate. -/
theorem takeOperands_consumes {rm : Rm} {imm : Byte}
    (h : takeOperands mode64 addr67 hi x b bs = .ok ((reg, rm, imm), rest)) : Consumes (1 + rm.len + 1) bs rest := by
  obtain ⟨modrm, tail, rfl, -, hrm⟩ := takeOperands_ok h
  obtain ⟨used, hused, rfl⟩ := takeRm_consumes hrm
  exact ⟨modrm :: (used ++ [imm]), by simp [hused]; omega, by simp⟩

end operands

theorem prefixOf_some {b : Byte} {p : Prefix} (h : prefixOf b = some p) : p.byte = b := by
  unfold prefixOf at h
  split at h <;> cases h <;> rfl

/-- The leading legacy prefixes are the bytes before what follows them. -/
theorem takePrefixes_eq {bs tail : List Byte} {pfx : List Prefix} (h : takePrefixes bs = (pfx, tail)) :
    bs = pfx.map Prefix.byte ++ tail := by
  induction bs generalizing pfx with
  | nil => cases h; rfl
  | cons b bs ih =>
    simp only [takePrefixes] at h
    split at h
    · next hb =>
      cases h
      simpa [prefixOf_some hb] using ih rfl
    · cases h; rfl

/-- What a decoded instruction consists of: its legacy prefixes, its head, and the operands read after it. -/
theorem decode_layout {mode64 : Bool} {bs rest : List Byte} {i : Instr} (h : decode mode64 bs = .ok (i, rest)) :
    ∃ head tail hi x b reg, bs = i.pfx.map Prefix.byte ++ (head ++ tail) ∧ head.length = i.headLen ∧
      takeOperands mode64 (i.pfx.contains .addrSize) hi x b tail = .ok ((reg, i.src2, i.imm8), rest) := by
  obtain ⟨pfx, lead, tail, htake, hcases⟩ := decode_ok h
  rw [takePrefixes_eq htake]
  obtain ⟨rfl, h⟩ | ⟨rfl, h⟩ | ⟨rfl, h⟩ | ⟨rfl, h⟩ | ⟨rfl, -, h⟩ := hcases
  · obtain ⟨-, -, _, _, _, _, rfl, ⟨-, hops, rfl⟩ | ⟨_, hrex, -⟩⟩ := decodeLegacy_ok h
    · exact ⟨[_, _], _, _, _, _, _, rfl, rfl, hops⟩
    · cases hrex
  · obtain ⟨-, -, p, _, _, _, _, rfl, -, -, hops, rfl⟩ := decodeVex2_ok h
    cases bitOf p 2 <;> exact ⟨[_, _, _], _, _, _, _, _, rfl, rfl, hops⟩
  · obtain ⟨-, -, p1, p2, _, _, _, _, rfl, -, -, -, hops, rfl⟩ := decodeVex3_ok h
    cases bitOf p2 2 <;> exact ⟨[_, _, _, _], _, _, _, _, _, rfl, rfl, hops⟩
  · obtain ⟨-, -, p0, p1, p2, _, _, _, _, rfl, -, -, -, -, hops, -, rfl⟩ := decodeEvex_ok h
    unfold evexForm
    split <;> exact ⟨[_, _, _, _, _], _, _, _, _, _, rfl, rfl, hops⟩
  · obtain ⟨_, rfl, hlegacy⟩ := decodeRex_ok h
    obtain ⟨-, -, _, _, _, _, rfl, ⟨hrex, -⟩ | ⟨_, -, hops, rfl⟩⟩ := decodeLegacy_ok hlegacy
    · cases hrex
    · exact ⟨[_, _, _], _, _, _, _, _, rfl, rfl, hops⟩

/-- The decoder consumes exactly the length of the instruction it answers. -/
theorem decode_consumes {mode64 : Bool} {bs rest : List Byte} {i : Instr} (h : decode mode64 bs = .ok (i, rest)) :
    Consumes i.len bs rest := by
  obtain ⟨head, tail, _, _, _, _, rfl, hhead, hops⟩ := decode_layout h
  have hlen : i.len = (i.pfx.map Prefix.byte).length + (head.length + (1 + i.src2.len + 1)) := by
    rw [hhead, List.length_map, Instr.len]
    omega
  rw [hlen]
  exact ((takeOperands_consumes hops).append head).append _

/-! ### The prefixes of an admitted encoding (R56, R57, R67) -/

theorem legacyPrefixProblem_none {pfx : List Prefix} :
    legacyPrefixProblem pfx = none ↔ .lock ∉ pfx ∧ (.repne ∉ pfx ∧ .rep ∉ pfx) ∧ .opSize ∈ pfx := by
  simp only [legacyPrefixProblem, check_eq_none, not_or]
  by_cases h : .opSize ∈ pfx <;> simp [h]

theorem vexPrefixProblem_none {pfx : List Prefix} :
    vexPrefixProblem pfx = none ↔ .lock ∉ pfx ∧ .opSize ∉ pfx ∧ .repne ∉ pfx ∧ .rep ∉ pfx := by
  simp only [vexPrefixProblem, check_eq_none, not_or, and_true]

/-- Every encoding is admitted after the prefixes of the legacy form or after those of the VEX and EVEX forms. -/
theorem decode_prefixes {mode64 : Bool} {bs rest : List Byte} {i : Instr} (h : decode mode64 bs = .ok (i, rest)) :
    legacyPrefixProblem (takePrefixes bs).1 = none ∨ vexPrefixProblem (takePrefixes bs).1 = none := by
  obtain ⟨pfx, b, tail, htake, hcases⟩ := decode_ok h
  rw [htake]
  obtain ⟨-, h⟩ | ⟨-, h⟩ | ⟨-, h⟩ | ⟨-, h⟩ | ⟨-, -, h⟩ := hcases
  · exact .inl (decodeLegacy_ok h).1
  · exact .inr (decodeVex2_ok h).1
  · exact .inr (decodeVex3_ok h).1
  · exact .inr (decodeEvex_ok h).1
  · obtain ⟨_, -, hlegacy⟩ := decodeRex_ok h
    exact .inl (decodeLegacy_ok hlegacy).1

/-- Only the head of the legacy form has two bytes, and that form needs 66H before it. -/
theorem five_le_len_of_wf {mode64 : Bool} {i : Instr} (h : i.wf mode64 = true) : 5 ≤ i.len := by
  obtain ⟨-, -, hok⟩ := wf_iff.1 h
  cases i
  case shufpd pfx d rm imm =>
    simp only [Instr.operandsOk, Bool.and_eq_true, beq_iff_eq] at hok
    obtain ⟨-, -, hmem⟩ := legacyPrefixProblem_none.1 hok.1.1
    have := List.length_pos_of_mem hmem
    simp only [Instr.len, Instr.pfx, Instr.headLen]
    omega
  all_goals simp only [Instr.len, Instr.headLen]; omega

/-! ### Refusals -/

theorem exists_error_of_forall_ne_ok {ε α : Type} {x : Except ε α} (h : ∀ a, x ≠ .ok a) : ∃ e, x = .error e := by
  cases x with
  | error e => exact ⟨e, rfl⟩
  | ok a => exact absurd rfl (h a)

/-- An encoding that the decoder never answers is refused. -/
theorem decode_error_of_not_ok {mode64 : Bool} {bs : List Byte} (h : ∀ i rest, decode mode64 bs ≠ .ok (i, rest)) :
    ∃ e, decode mode64 bs = .error e := exists_error_of_forall_ne_ok fun (i, rest) => h i rest

/-- After a REX byte only `0F` continues an admitted encoding (R56, R67). -/
theorem decode_rex_next {mode64 : Bool} {bs tail rest : List Byte} {rex : Byte} {i : Instr}
    (hrex : field rex 4 4 = 4#4) (hbs : (takePrefixes bs).2 = rex :: tail) (h : decode mode64 bs = .ok (i, rest)) :
    ∃ tail', tail = 0x0F#8 :: tail' := by
  obtain ⟨hlegacy, hvex2, hvex3, hevex, -⟩ := rex_ne hrex
  obtain ⟨pfx, lead, tail', htake, hcases⟩ := decode_ok h
  obtain ⟨rfl, rfl⟩ : lead = rex ∧ tail' = tail := by simpa [htake] using hbs
  obtain ⟨hb, -⟩ | ⟨hb, -⟩ | ⟨hb, -⟩ | ⟨hb, -⟩ | ⟨-, -, h⟩ := hcases
  · exact absurd hb hlegacy
  · exact absurd hb hvex2
  · exact absurd hb hvex3
  · exact absurd hb hevex
  · obtain ⟨tail'', htail, -⟩ := decodeRex_ok h
    exact ⟨tail'', htail⟩

/-- Before C4H, C5H and 62H stand only the legacy prefixes that VEX and EVEX admit (R57, R58). -/
theorem decode_vexLead_prefixes {mode64 : Bool} {bs tail rest : List Byte} {b : Byte} {i : Instr}
    (hb : b = 0xC4#8 ∨ b = 0xC5#8 ∨ b = 0x62#8) (hbs : (takePrefixes bs).2 = b :: tail)
    (h : decode mode64 bs = .ok (i, rest)) : vexPrefixProblem (takePrefixes bs).1 = none := by
  obtain rfl | rfl | rfl := hb
  · rw [decode_vex3 (Prod.ext rfl hbs)] at h
    exact (decodeVex3_ok h).1
  · rw [decode_vex2 (Prod.ext rfl hbs)] at h
    exact (decodeVex2_ok h).1
  · rw [decode_evex (Prod.ext rfl hbs)] at h
    exact (decodeEvex_ok h).1

/-- The payload bytes of an admitted EVEX encoding have no problem (R58). -/
theorem decode_evex_payload {mode64 : Bool} {bs tail rest : List Byte} {p0 p1 p2 : Byte} {i : Instr}
    (hbs : (takePrefixes bs).2 = 0x62#8 :: p0 :: p1 :: p2 :: tail) (h : decode mode64 bs = .ok (i, rest)) :
    evexProblem mode64 p0 p1 p2 = none := by
  rw [decode_evex (Prod.ext rfl hbs)] at h
  obtain ⟨-, -, _, _, _, _, _, _, _, hbytes, -, -, -, hev, -⟩ := decodeEvex_ok h
  cases hbytes
  exact hev

/-! ### The ignored bits W (R56, R57, R68) -/

theorem bitOf_xor (p q : Byte) (i : Nat) : bitOf (p ^^^ q) i = (bitOf p i ^^ bitOf q i) := BitVec.getLsbD_xor

theorem field_xor (p q : Byte) (lo n : Nat) : field (p ^^^ q) lo n = field p lo n ^^^ field q lo n :=
  BitVec.extractLsb'_xor

/-- The three-byte VEX encoding looks at bits 6 to 0 of its second payload byte only. -/
theorem decodeVex3_congr {p2 p2' : Byte} (hpp : field p2' 0 2 = field p2 0 2) (hl : bitOf p2' 2 = bitOf p2 2)
    (hvvvv : field p2' 3 4 = field p2 3 4) (mode64 : Bool) (pfx : List Prefix) (p1 : Byte) (tail : List Byte) :
    decodeVex3 mode64 pfx (p1 :: p2' :: tail) = decodeVex3 mode64 pfx (p1 :: p2 :: tail) := by
  have htop : bitOf p2' 6 = bitOf p2 6 := by rw [bitOf_of_field hvvvv, bitOf_of_field (p := p2) rfl]
  cases tail with
  | nil => rfl
  | cons op tail => simp only [decodeVex3, hpp, hl, hvvvv, htop]

/-- The legacy encoding looks at the bits `R`, `X` and `B` of its REX byte only. -/
theorem decodeRex_congr {rex rex' : Byte} (hr : bitOf rex' 2 = bitOf rex 2) (hx : bitOf rex' 1 = bitOf rex 1)
    (hb : bitOf rex' 0 = bitOf rex 0) (pfx : List Prefix) (tail : List Byte) :
    decodeRex pfx rex' tail = decodeRex pfx rex tail := by
  rcases tail with _ | ⟨b, _ | ⟨op, tail⟩⟩
  · rfl
  · simp only [decodeRex, decodeLegacy]
  · simp only [decodeRex, decodeLegacy, hr, hx, hb]

end Sys2Proof

namespace Sys2Proof.Proofs

/-- Settles O2, from the inversion lemma of each encoding. -/
theorem decodedInstructionIsWellFormed : Obligations.DecodedInstructionIsWellFormed := fun _ _ _ _ => decode_wf

/-- Settles O3: the operands are read byte by byte after the prefixes and the head. -/
theorem decodeConsumesTheLength : Obligations.DecodeConsumesTheLength := by
  intro mode64 bs rest i hdec
  have hwf := decode_wf hdec
  have hcons := decode_consumes hdec
  exact ⟨five_le_len_of_wf hwf, (wf_iff.1 hwf).1, hcons.length_eq, hcons.eq_drop⟩

/-- Settles O5: no admitted encoding has one of the three. -/
theorem lockAndRepeatPrefixesAreRefused : Obligations.LockAndRepeatPrefixesAreRefused := by
  intro mode64 bs hmem
  refine decode_error_of_not_ok fun i rest hdec => ?_
  obtain hpfx | hpfx := decode_prefixes hdec
  · obtain ⟨hlock, ⟨hrepne, hrep⟩, -⟩ := legacyPrefixProblem_none.1 hpfx
    simp [hlock, hrepne, hrep] at hmem
  · obtain ⟨hlock, -, hrepne, hrep⟩ := vexPrefixProblem_none.1 hpfx
    simp [hlock, hrepne, hrep] at hmem

/-- Settles O6: VEX and EVEX admit no 66H, and what follows a REX byte is `0F`. -/
theorem operandSizeOrRexBeforeVexIsRefused : Obligations.OperandSizeOrRexBeforeVexIsRefused := by
  intro mode64 bs rest b hb
  refine ⟨fun hbs hmem => decode_error_of_not_ok fun i _ hdec => ?_,
    fun rex hrex hbs => decode_error_of_not_ok fun i _ hdec => ?_⟩
  · obtain ⟨-, hno, -⟩ := vexPrefixProblem_none.1 (decode_vexLead_prefixes hb hbs hdec)
    exact hno hmem
  · obtain ⟨_, htail⟩ := decode_rex_next hrex hbs hdec
    obtain ⟨rfl, -⟩ := List.cons.inj htail
    exact absurd hb (by decide)

/-- Settles O9, from what the payload bytes of an admitted EVEX encoding satisfy. -/
theorem evexReservedFieldsAreRefused : Obligations.EvexReservedFieldsAreRefused := by
  intro mode64 bs p0 p1 p2 rest hbs hbad
  refine decode_error_of_not_ok fun i _ hdec => ?_
  obtain ⟨⟨hres, hone⟩, hw, hll, -, hhigh⟩ := evexProblem_none.1 (decode_evex_payload hbs hdec)
  obtain hbad | hbad | hbad | hbad | ⟨hm, hbad⟩ := hbad
  · simp [hw] at hbad
  · exact hll hbad
  · exact hbad hres
  · simp [hone] at hbad
  · simp [hhigh hm] at hbad

/-- Settles O10: the decoder looks at no field that contains a bit `W`. -/
theorem ignoredWBitsDoNotMatter : Obligations.IgnoredWBitsDoNotMatter := by
  refine ⟨fun mode64 pfx p1 p2 rest => ?_, fun pfx rex rest hrex => ?_⟩
  · have hpp : field (p2 ^^^ 0x80) 0 2 = field p2 0 2 := (field_xor ..).trans BitVec.xor_zero
    have hl : bitOf (p2 ^^^ 0x80) 2 = bitOf p2 2 := (bitOf_xor ..).trans (Bool.xor_false _)
    have hvvvv : field (p2 ^^^ 0x80) 3 4 = field p2 3 4 := (field_xor ..).trans BitVec.xor_zero
    have hread (p : Byte) := decode_vex3 (mode64 := mode64) (takePrefixes_map_byte rfl pfx (p1 :: p :: rest))
    exact (hread _).trans ((decodeVex3_congr hpp hl hvvvv mode64 pfx p1 rest).trans (hread _).symm)
  · have hrex' : field (rex ^^^ 0x08) 4 4 = 4#4 := ((field_xor ..).trans BitVec.xor_zero).trans hrex
    obtain ⟨-, -, -, -, hnone⟩ := rex_ne hrex
    obtain ⟨-, -, -, -, hnone'⟩ := rex_ne hrex'
    rw [decode_rex hrex (takePrefixes_map_byte hnone _ _), decode_rex hrex' (takePrefixes_map_byte hnone' _ _)]
    have hbit : ∀ i < 3, bitOf (rex ^^^ 0x08) i = bitOf rex i := fun i hi =>
      (bitOf_xor ..).trans (by rw [show bitOf 0x08 i = false by interval_cases i <;> rfl, Bool.xor_false])
    exact decodeRex_congr (hbit 2 (by decide)) (hbit 1 (by decide)) (hbit 0 (by decide)) pfx rest

end Sys2Proof.Proofs

/-! # Proofs: segments and effective addresses -/

namespace Sys2Proof.Machine

/-! ### The segment of an operand (R55, R56) -/

theorem mem_overrides {σ : Segment} {pfx : List Prefix} : σ ∈ overrides pfx ↔ .seg σ ∈ pfx := by
  induction pfx with
  | nil => simp [overrides]
  | cons p pfx ih => cases p <;> simp [overrides, ih]

/-- There is an override, and it is one of those named. -/
theorem overrideOf_mem {σs : List Segment} (h : σs ≠ []) : ∃ σ ∈ σs, overrideOf σs = some σ := by
  cases σs with
  | nil => exact absurd rfl h
  | cons σ rest =>
    simp only [overrideOf]
    split
    · exact ⟨σ, List.mem_cons_self, rfl⟩
    · have hlt : Config.segmentChoice (σ :: rest) % (rest.length + 1) < (σ :: rest).length :=
        Nat.mod_lt _ (Nat.succ_pos _)
      exact ⟨_, List.getElem_mem hlt, by rw [List.getD_eq_getElem _ _ hlt]⟩

theorem segmentOf_of_no_override {pfx : List Prefix} (h : ∀ σ, .seg σ ∉ pfx) (m : MemOperand) :
    segmentOf pfx m = defaultSegment m := by
  have hnil : overrides pfx = [] := List.eq_nil_iff_forall_not_mem.2 fun σ => mt mem_overrides.1 (h σ)
  rw [segmentOf, hnil, overrideOf, Option.getD_none]

theorem segmentOf_mem {pfx : List Prefix} {σ : Segment} (h : .seg σ ∈ pfx) (m : MemOperand) :
    .seg (segmentOf pfx m) ∈ pfx := by
  obtain ⟨τ, hmem, hover⟩ := overrideOf_mem (List.ne_nil_of_mem (mem_overrides.2 h))
  rw [segmentOf, hover, Option.getD_some]
  exact mem_overrides.1 hmem

/-- The base of a segment, case by case (R39). -/
theorem segmentBase_eq (l : Config.Launch) (σ : Segment) :
    segmentBase l σ = if l.mode64 = true ∧ σ ≠ .fs ∧ σ ≠ .gs then some 0 else l.segBase.of σ := by
  simp [segmentBase]

/-! ### The address as a sum of integers (R55, R62) -/

theorem low32_toNat (w : Word) : (low32 w).toNat = w.toNat % 2 ^ 32 := by
  have : w.toNat % 2 ^ 32 < 2 ^ 64 := (Nat.mod_lt _ (by decide)).trans (by decide)
  simp only [low32, BitVec.toNat_setWidth, Nat.mod_eq_of_lt this]

end Sys2Proof.Machine

namespace Sys2Proof.Safety

open Sys2Proof.Machine

/-- A word is its value modulo 2^64. -/
theorem ofInt_toNat (w : Word) : BitVec.ofInt 64 w.toNat = w := by
  rw [BitVec.ofInt_natCast, BitVec.ofNat_toNat, BitVec.setWidth_eq]

variable (s : State) (pfx : List Prefix)

theorem addrReg_toNat (r : GReg) : ((addrReg s pfx r).toNat : Int) = regValue s pfx r := by
  unfold addrReg regValue
  split
  · rw [low32_toNat]
  · rfl

theorem addrReg_eq_ofInt (r : GReg) : addrReg s pfx r = BitVec.ofInt 64 (regValue s pfx r) := by
  rw [← addrReg_toNat, ofInt_toNat]

theorem disp_value_eq_ofInt (n : Nat) (disp : Disp) : Disp.value n disp = BitVec.ofInt 64 (dispValue n disp) := by
  cases disp with
  | none => rfl
  | disp8 d => rw [Disp.value, dispValue, BitVec.ofInt_mul, BitVec.ofInt_natCast]; rfl
  | disp32 d => rfl

theorem indexValue_eq_ofInt (scale : BitVec 2) (index : Option GReg) :
    indexValue s pfx scale index = BitVec.ofInt 64 (scaledIndex s pfx scale index) := by
  cases index with
  | none => rfl
  | some r =>
    have hpow : BitVec.twoPow 64 scale.toNat = BitVec.ofInt 64 (2 ^ scale.toNat) := by
      rw [show (2 : Int) ^ scale.toNat = (2 ^ scale.toNat : Nat) by simp, BitVec.ofInt_natCast]
      exact BitVec.eq_of_toNat_eq (by rw [BitVec.toNat_twoPow, BitVec.toNat_ofNat])
    rw [indexValue, scaledIndex, BitVec.shiftLeft_eq_mul_twoPow, addrReg_eq_ofInt, hpow, BitVec.ofInt_mul]

theorem nextPc_eq_ofInt (len : Nat) : s.nextPc len = BitVec.ofInt 64 (s.pc.toNat + len) := by
  rw [State.nextPc, BitVec.ofInt_add, ofInt_toNat, BitVec.ofInt_natCast]

/-- The machine's 64-bit sum is the exact sum modulo 2^64, for each shape of operand. -/
theorem addressSum_eq_ofInt (len n : Nat) (m : MemOperand) :
    addressSum s pfx len n m = BitVec.ofInt 64 (addressValue s pfx len n m) := by
  cases m with
  | base r disp => rw [addressSum, addressValue, BitVec.ofInt_add, addrReg_eq_ofInt, disp_value_eq_ofInt]
  | disp32 d =>
    rw [addressSum, addressValue, BitVec.ofInt_add]
    split
    · rw [nextPc_eq_ofInt]; rfl
    · rfl
  | sib scale index r disp =>
    rw [addressSum, addressValue, BitVec.ofInt_add, BitVec.ofInt_add, addrReg_eq_ofInt, indexValue_eq_ofInt,
      disp_value_eq_ofInt]
  | sibNoBase scale index d => rw [addressSum, addressValue, BitVec.ofInt_add, indexValue_eq_ofInt]; rfl

theorem ofInt_toNat_eq_emod (v : Int) : ((BitVec.ofInt 64 v).toNat : Int) = v % 2 ^ 64 := by
  rw [BitVec.toNat_ofInt, Int.toNat_of_nonneg (Int.emod_nonneg _ (by decide))]
  rfl

/-- The offset is the exact sum modulo the address size. -/
theorem addressOffset_toNat (len n : Nat) (m : MemOperand) :
    ((addressOffset s pfx len n m).toNat : Int) =
      addressValue s pfx len n m % 2 ^ (if addr32 s.launch pfx then 32 else 64) := by
  rw [addressOffset, addressSum_eq_ofInt]
  split
  · rw [low32_toNat, Int.natCast_emod, ofInt_toNat_eq_emod]
    exact Int.emod_emod_of_dvd _ (by decide)
  · exact ofInt_toNat_eq_emod _

/-- With a base that the launch supplies, the address is the offset plus the base, as wide as the mode says. -/
theorem effectiveAddress_of_base {len n : Nat} {m : MemOperand} {base : Word}
    (h : segmentBase s.launch (segmentOf pfx m) = some base) :
    ∃ ea : Word, effectiveAddress s pfx len n m = some ea ∧
      ea.toNat = ((addressOffset s pfx len n m).toNat + base.toNat) % 2 ^ (if s.launch.mode64 then 64 else 32) := by
  simp only [effectiveAddress, h]
  cases s.launch.mode64 with
  | true => exact ⟨_, rfl, BitVec.toNat_add ..⟩
  | false =>
    refine ⟨_, rfl, ?_⟩
    rw [low32_toNat, BitVec.toNat_add]
    exact Nat.mod_mod_of_dvd _ (by decide)

end Sys2Proof.Safety

namespace Sys2Proof.Proofs

open Sys2Proof.Machine Sys2Proof.Safety

/-- Settles O18: each summand of the machine's address is the integer summand modulo 2^64. -/
theorem addressIsTheSumModuloTheAddressSize : Obligations.AddressIsTheSumModuloTheAddressSize := fun s pfx len n m =>
  ⟨addressOffset_toNat s pfx len n m, fun _ hbase => effectiveAddress_of_base s pfx hbase, fun hnone => by
    rw [effectiveAddress, hnone]⟩

/-- Settles O19, from the overrides among the prefixes and the default of each shape of operand. -/
theorem operandSegment : Obligations.OperandSegment :=
  ⟨fun _ m hno => segmentOf_of_no_override hno m,
    fun _ m _ hmem => segmentOf_mem hmem m,
    fun _ _ => rfl, fun _ _ _ _ => rfl, fun _ => rfl, fun _ _ _ => rfl,
    fun _ m _ hmem hall => hall _ (segmentOf_mem hmem m),
    segmentBase_eq⟩

end Sys2Proof.Proofs

/-! # Proofs: the encodings and the intrinsics of one operation -/

namespace Sys2Proof.Machine

theorem vec_ext {v w : Vec} (h : ∀ j : Fin 8, v[j] = w[j]) : v = w := Vector.ext fun n hn => h ⟨n, hn⟩

/-! ### Masked writes (R106, R108) -/

theorem writemask_zero (s : State) : writemask s 0 = none := rfl

/-- Without a writemask the whole selection is written. -/
theorem maskWrite_shuf_none (vl : VecLen) (a b old : Vec) (imm : Byte) (z : Bool) :
    maskWrite vl (shuf vl a b imm) old none z = shuf vl a b imm := by
  refine vec_ext fun j => ?_
  rw [maskWrite_getElem]
  split
  · rfl
  · next h => exact (shuf_getElem_of_le (Nat.not_lt.1 h) a b imm).symm

/-- Zeroing-masking does not read the old destination. -/
theorem maskWrite_zeroing (vl : VecLen) (t old old' : Vec) (mask : Option Word) :
    maskWrite vl t old mask true = maskWrite vl t old' mask true :=
  vec_ext fun j => by simp only [maskWrite_getElem, if_true]

/-- The eight mask bits of an intrinsic are the writemask register as a form reads it (R15). -/
theorem maskWrite_reg {k : BitVec 3} (hk : k ≠ 0#3) (s : State) (vl : VecLen) (t old : Vec) (z : Bool) :
    maskWrite vl t old (Mmask8.reg ((s.kreg k).setWidth 8)) z = maskWrite vl t old (writemask s k) z := by
  refine maskWrite_congr (fun j hj => ?_) t old z
  have hj8 : j < 8 := hj.trans_le vl.elems_le_eight
  simp only [writemask, if_neg hk, maskBit, Mmask8.reg, BitVec.getLsbD_setWidth, hj8, hj8.trans (by decide : 8 < 64),
    decide_true, Bool.true_and]

/-! ### The low bits of a register as the value of an intrinsic (R71) -/

theorem shuf_wide128 (a b : Vec) (imm : Byte) :
    shuf .v128 (low128 a).wide (low128 b).wide imm = shuf .v128 a b imm := rfl

theorem shuf_wide256 (a b : Vec) (imm : Byte) :
    shuf .v256 (low256 a).wide (low256 b).wide imm = shuf .v256 a b imm := rfl

theorem low128_keepUpper (old t : Vec) : low128 (keepUpper .v128 old t) = low128 t := rfl

theorem low256_vexUpper (u : Config.Vex256Upper) (old t : Vec) : low256 (vexUpper u .v256 old t) = low256 t := by
  cases u <;> rfl

theorem low128_maskWrite_wide (t old : Vec) (mask : Option Word) (z : Bool) :
    low128 (maskWrite .v128 t (low128 old).wide mask z) = low128 (maskWrite .v128 t old mask z) := rfl

theorem low256_maskWrite_wide (t old : Vec) (mask : Option Word) (z : Bool) :
    low256 (maskWrite .v256 t (low256 old).wide mask z) = low256 (maskWrite .v256 t old mask z) := rfl

/-- The low four elements of a VEX.256 destination are the selection, whatever happens above them (R97). -/
theorem vexUpper_v256_getElem {j : Fin 8} (h : j.val < 4) (u : Config.Vex256Upper) (old t : Vec) :
    (vexUpper u .v256 old t)[j] = t[j] := by
  cases u with
  | unmodified => exact (keepUpper_getElem .v256 old t j).trans (if_pos h)
  | zeroed => rfl

end Sys2Proof.Machine

namespace Sys2Proof.Safety

open Sys2Proof.Machine

variable {i : Instr} {s t : State} {r : VReg}

/-- A completed form with a register second source. -/
theorem exec_reg_next (hr : i.src2 = .reg r) (h : exec i s = .next t) :
    t = (s.setVreg i.dest (newDest i s (s.vreg r))).advance i.len := by
  obtain ⟨-, -, b, hb, ht⟩ := exec_next.1 h
  rw [source_of_reg hr] at hb
  cases hb
  exact ht

theorem v_of_exec_reg (hr : i.src2 = .reg r) (h : exec i s = .next t) :
    t.v = (s.setVreg i.dest (newDest i s (s.vreg r))).v := by rw [exec_reg_next hr h, advance_v]

theorem vreg_of_exec_reg (hr : i.src2 = .reg r) (h : exec i s = .next t) :
    t.vreg i.dest = newDest i s (s.vreg r) := by rw [exec_reg_next hr h, advance_vreg, setVreg_vreg_same]

/-- The destination of an EVEX form with a register second source (R110 to R112). -/
theorem evex_vreg_of_exec_reg {vl : VecLen} {pfx : List Prefix} {d s1 : VReg} {k : BitVec 3} {z : Bool} {imm : Byte}
    (h : exec (evexInstr vl pfx d k z s1 (.reg r) false imm) s = .next t) :
    t.vreg d = maskWrite vl (shuf vl (s.vreg s1) (s.vreg r) imm) (s.vreg d) (writemask s k) z := by
  cases vl <;> exact vreg_of_exec_reg rfl h

end Sys2Proof.Safety

namespace Sys2Proof.Proofs

open Sys2Proof.Machine Sys2Proof.Safety

/-- Settles O33: all three encodings write the same selection to the same register. -/
theorem encodingsOfOneOperationAgree : Obligations.EncodingsOfOneOperationAgree := by
  intro s t2 t3 te pfx d s1 r imm
  refine ⟨fun h2 h3 he => ?_, fun h2 h3 he => ?_⟩
  · have hv2 : t2.v = (s.setVreg d (shuf .v128 (s.vreg s1) (s.vreg r) imm)).v := v_of_exec_reg rfl h2
    have hv3 : t3.v = (s.setVreg d (shuf .v128 (s.vreg s1) (s.vreg r) imm)).v := v_of_exec_reg rfl h3
    have hve : te.v = (s.setVreg d (maskWrite .v128 (shuf .v128 (s.vreg s1) (s.vreg r) imm) (s.vreg d)
        (writemask s 0) false)).v := v_of_exec_reg rfl he
    rw [writemask_zero, maskWrite_shuf_none] at hve
    exact ⟨hv2.trans hv3.symm, hv2.trans hve.symm⟩
  · have hv2 : t2.v = (s.setVreg d (vexUpper s.launch.vex256Upper .v256 (s.vreg d)
        (shuf .v256 (s.vreg s1) (s.vreg r) imm))).v := v_of_exec_reg rfl h2
    have hv3 : t3.v = (s.setVreg d (vexUpper s.launch.vex256Upper .v256 (s.vreg d)
        (shuf .v256 (s.vreg s1) (s.vreg r) imm))).v := v_of_exec_reg rfl h3
    have hd2 : t2.vreg d = vexUpper s.launch.vex256Upper .v256 (s.vreg d) (shuf .v256 (s.vreg s1) (s.vreg r) imm) :=
      vreg_of_exec_reg rfl h2
    refine ⟨hv2.trans hv3.symm, fun j hj => ?_⟩
    rw [hd2, evex_vreg_of_exec_reg (vl := .v256) he, writemask_zero, maskWrite_shuf_none, vexUpper_v256_getElem hj]

/-- Settles O34: the new destination of each form, whose low bits depend on the low bits of its operands only. -/
theorem intrinsicsGiveTheNewDestination : Obligations.IntrinsicsGiveTheNewDestination := by
  intro s t pfx d s1 r k imm hk m run
  refine ⟨fun h => ?_, fun h => ?_, fun h => ?_, fun h => ?_, fun h => ?_, fun h => ?_, fun h => ?_, fun h => ?_,
    fun h => ?_⟩
  · have hd : t.vreg d = keepUpper .v128 (s.vreg d) (shuf .v128 (s.vreg d) (s.vreg r) imm) := vreg_of_exec_reg rfl h
    rw [hd, low128_keepUpper, mmShufflePd, shuf_wide128]
  · have hd : t.vreg d = vexUpper s.launch.vex256Upper .v256 (s.vreg d) (shuf .v256 (s.vreg s1) (s.vreg r) imm) :=
      vreg_of_exec_reg rfl h
    rw [hd, low256_vexUpper, mm256ShufflePd, shuf_wide256]
  · rw [evex_vreg_of_exec_reg (vl := .v512) h, writemask_zero, maskWrite_shuf_none, mm512ShufflePd]
  · rw [evex_vreg_of_exec_reg (vl := .v128) h, mmMaskShufflePd, shuf_wide128, low128_maskWrite_wide, maskWrite_reg hk]
  · rw [evex_vreg_of_exec_reg (vl := .v128) h, mmMaskzShufflePd, shuf_wide128, maskWrite_reg hk, maskWrite_zeroing]
  · rw [evex_vreg_of_exec_reg (vl := .v256) h, mm256MaskShufflePd, shuf_wide256, low256_maskWrite_wide,
      maskWrite_reg hk]
  · rw [evex_vreg_of_exec_reg (vl := .v256) h, mm256MaskzShufflePd, shuf_wide256, maskWrite_reg hk, maskWrite_zeroing]
  · rw [evex_vreg_of_exec_reg (vl := .v512) h, mm512MaskShufflePd, maskWrite_reg hk]
  · rw [evex_vreg_of_exec_reg (vl := .v512) h, mm512MaskzShufflePd, maskWrite_reg hk, maskWrite_zeroing]

end Sys2Proof.Proofs

/-! # Proofs: bytes that are no admitted form -/

namespace Sys2Proof.Machine

theorem formAt_of_decode_error {s : State} {e : DecodeRefusal}
    (h : decode s.launch.mode64 (fetchBytes s) = .error e) : formAt s = .error (.notAdmitted e) := by
  rw [formAt, h]

/-- The first form that has no place in the program names the reason (R162). -/
theorem restProblem_of_formAt_error {s : State} {r : Refusal} (hpc : s.pc ≠ s.progEnd) (h : formAt s = .error r) :
    restProblem s = some r := by
  simp only [restProblem, programProblem, if_neg hpc, h]

/-- Under an admitted launch, before the end, the problem of the program is what a fetch answers. -/
theorem fetch_of_restProblem {s : State} {r : Refusal} (hfac : s.launch.facilities = false)
    (hcons : launchConsistent s.launch = true) (hpc : s.pc ≠ s.progEnd) (h : restProblem s = some r) :
    fetch s = .error r := by
  simp [fetch, hfac, hcons, hpc, h]

end Sys2Proof.Machine

namespace Sys2Proof.Proofs

open Sys2Proof.Machine

/-- Settles O48: the form at `pc` is the first of the program, so its refusal is the program's. -/
theorem unadmittedBytesAreRefused : Obligations.UnadmittedBytesAreRefused := fun _ _ hfac hcons hpc hdec =>
  step_of_fetch_error
    (fetch_of_restProblem hfac hcons hpc (restProblem_of_formAt_error hpc (formAt_of_decode_error hdec)))

end Sys2Proof.Proofs

/-! # Proofs: the selection, the ignored immediate bits, and the frame of a step -/

namespace Sys2Proof.Safety

open Sys2Proof.Machine

/-! ### The pairs of a register (R81, R87) -/

/-- `lo p` of R87, element `2p`. -/
def lowElem (p : Fin 4) : Fin 8 := ⟨2 * p.val, by omega⟩

/-- `hi p` of R87, element `2p+1`. -/
def highElem (p : Fin 4) : Fin 8 := ⟨2 * p.val + 1, by omega⟩

/-- A select control chooses between the two elements of its pair. -/
theorem pairElem_eq {j : Fin 8} {p : Fin 4} (hp : j.val / 2 = p.val) (imm : Byte) (v : Vec) :
    pairElem imm j v = if imm.getLsbD j.val then v[highElem p] else v[lowElem p] := by
  unfold pairElem
  split
  · next hbit => exact getElem_congr_idx (by rw [hp, hbit]; rfl)
  · next hbit => exact getElem_congr_idx (by rw [hp, Bool.eq_false_of_not_eq_true hbit]; rfl)

/-- A line of R80 is the choice of R81. -/
theorem select_eq_pairElem {j : Fin 8} {p : Fin 4} (hp : j.val / 2 = p.val) (imm : Byte) (v : Vec) :
    select imm j.val v[lowElem p] v[highElem p] = pairElem imm j v := by
  rw [pairElem_eq hp, select]
  cases imm.getLsbD j.val <;> rfl

theorem selected_of_even {j : Fin 8} (h : j.val % 2 = 0) (imm : Byte) (a b : Vec) :
    selected imm j a b = pairElem imm j a := if_pos h

theorem selected_of_odd {j : Fin 8} (h : j.val % 2 ≠ 0) (imm : Byte) (a b : Vec) :
    selected imm j a b = pairElem imm j b := if_neg h

theorem selected_lowElem (imm : Byte) (p : Fin 4) (a b : Vec) :
    selected imm (lowElem p) a b = if imm.getLsbD (2 * p.val) then a[highElem p] else a[lowElem p] :=
  (selected_of_even (Nat.mul_mod_right 2 p.val) imm a b).trans
    (pairElem_eq (Nat.mul_div_cancel_left p.val (by decide)) imm a)

theorem selected_highElem (imm : Byte) (p : Fin 4) (a b : Vec) :
    selected imm (highElem p) a b = if imm.getLsbD (2 * p.val + 1) then b[highElem p] else b[lowElem p] := by
  have hodd : (2 * p.val + 1) % 2 ≠ 0 := by omega
  have hpair : (2 * p.val + 1) / 2 = p.val := by omega
  exact (selected_of_odd (j := highElem p) hodd imm a b).trans (pairElem_eq hpair imm b)

/-! ### The closed form of the selection (R80, R81) -/

/-- The selection of a shorter vector length is the low part of the widest one. -/
theorem shuf_getElem_eq_v512 {vl : VecLen} {j : Fin 8} (h : j.val < vl.elems) (a b : Vec) (imm : Byte) :
    (shuf vl a b imm)[j] = (shuf .v512 a b imm)[j] := by
  cases vl with
  | v128 | v256 =>
    match j with
    | 0 | 1 | 2 | 3 | 4 | 5 | 6 | 7 => simp [shuf] at h ⊢
  | v512 => rfl

/-- R80 line by line: SRC1 in the even lines, SRC2 in the odd ones. -/
theorem shuf_v512_getElem (a b : Vec) (imm : Byte) (j : Fin 8) : (shuf .v512 a b imm)[j] = selected imm j a b := by
  match j with
  | 0 => exact select_eq_pairElem (j := 0) (p := 0) rfl imm a
  | 1 => exact select_eq_pairElem (j := 1) (p := 0) rfl imm b
  | 2 => exact select_eq_pairElem (j := 2) (p := 1) rfl imm a
  | 3 => exact select_eq_pairElem (j := 3) (p := 1) rfl imm b
  | 4 => exact select_eq_pairElem (j := 4) (p := 2) rfl imm a
  | 5 => exact select_eq_pairElem (j := 5) (p := 2) rfl imm b
  | 6 => exact select_eq_pairElem (j := 6) (p := 3) rfl imm a
  | 7 => exact select_eq_pairElem (j := 7) (p := 3) rfl imm b

theorem shuf_getElem_of_lt {vl : VecLen} {j : Fin 8} (h : j.val < vl.elems) (a b : Vec) (imm : Byte) :
    (shuf vl a b imm)[j] = selected imm j a b :=
  (shuf_getElem_eq_v512 h a b imm).trans (shuf_v512_getElem a b imm j)

/-! ### The selection reads one immediate bit per element (R83) -/

theorem selected_congr {imm imm' : Byte} {j : Fin 8} (h : imm'.getLsbD j.val = imm.getLsbD j.val) (a b : Vec) :
    selected imm' j a b = selected imm j a b := by
  simp only [selected, pairElem, h]

/-- An element of the selection depends on the immediate through its own select control, if it has one. -/
theorem shuf_getElem_congr {vl : VecLen} {imm imm' : Byte} {j : Fin 8}
    (h : j.val < vl.elems → imm'.getLsbD j.val = imm.getLsbD j.val) (a b : Vec) :
    (shuf vl a b imm')[j] = (shuf vl a b imm)[j] := by
  by_cases hj : j.val < vl.elems
  · rw [shuf_getElem_of_lt hj, shuf_getElem_of_lt hj, selected_congr (h hj)]
  · rw [shuf_getElem_of_le (Nat.not_lt.1 hj), shuf_getElem_of_le (Nat.not_lt.1 hj)]

/-- The immediate bits from the number of elements up are ignored. -/
theorem shuf_congr {vl : VecLen} {imm imm' : Byte} (h : ∀ j < vl.elems, imm'.getLsbD j = imm.getLsbD j) (a b : Vec) :
    shuf vl a b imm' = shuf vl a b imm :=
  vec_ext fun j => shuf_getElem_congr (h j.val) a b

/-- A pair of the selection whose select controls are `x` and `y`. -/
theorem shuf_pair {vl : VecLen} {imm : Byte} {p : Fin 4} {x y : Bool} (hused : 2 * p.val + 1 < vl.elems)
    (hbits : imm.getLsbD (2 * p.val) = x ∧ imm.getLsbD (2 * p.val + 1) = y) (a b : Vec) :
    (shuf vl a b imm)[lowElem p] = (if x then a[highElem p] else a[lowElem p]) ∧
      (shuf vl a b imm)[highElem p] = if y then b[highElem p] else b[lowElem p] := by
  obtain ⟨rfl, rfl⟩ := hbits
  exact ⟨(shuf_getElem_of_lt (Nat.lt_of_succ_lt hused) a b imm).trans (selected_lowElem imm p a b),
    (shuf_getElem_of_lt hused a b imm).trans (selected_highElem imm p a b)⟩

/-! ### The families read the immediate through the selection only (R83) -/

section families

variable {vl : VecLen} {imm imm' : Byte} {len : Nat} {pfx : List Prefix} {d s1 : VReg} {k : BitVec 3} {z b : Bool}
  {rm : Rm} {s : State}

theorem legacyShuffle_congr_imm (h : ∀ j < VecLen.v128.elems, imm'.getLsbD j = imm.getLsbD j) :
    legacyShuffle len pfx d rm imm' s = legacyShuffle len pfx d rm imm s := by
  simp only [legacyShuffle, shuf_congr h]

theorem vexShuffle_congr_imm (h : ∀ j < vl.elems, imm'.getLsbD j = imm.getLsbD j) :
    vexShuffle vl len pfx d s1 rm imm' s = vexShuffle vl len pfx d s1 rm imm s := by
  simp only [vexShuffle, shuf_congr h]

theorem evexShuffle_congr_imm (h : ∀ j < vl.elems, imm'.getLsbD j = imm.getLsbD j) :
    evexShuffle vl len pfx d k z s1 rm b imm' s = evexShuffle vl len pfx d k z s1 rm b imm s := by
  simp only [evexShuffle, shuf_congr h]

end families

/-! ### The frame of a completed instruction (R88) -/

theorem changesOnly_setVreg_advance (s : State) (d : VReg) (val : Vec) (len : Nat) :
    changesOnly s ((s.setVreg d val).advance len) d len :=
  ⟨fun _ hr => setVreg_vreg_ne hr, rfl, rfl, ⟨rfl, rfl⟩, fun _ => rfl, rfl, rfl, rfl⟩

theorem changesOnly_of_exec {i : Instr} {s t : State} (h : exec i s = .next t) : changesOnly s t i.dest i.len := by
  obtain ⟨-, val, rfl⟩ := exec_next_shape h
  exact changesOnly_setVreg_advance s i.dest val i.len

end Sys2Proof.Safety

namespace Sys2Proof.Proofs

open Sys2Proof.Machine Sys2Proof.Safety

/-- Settles O13: the selection of the widest vector length line by line, and its low part. -/
theorem shufSelectsWithinThePair : Obligations.ShufSelectsWithinThePair := fun _ a b imm _ h =>
  shuf_getElem_of_lt h a b imm

/-- Settles O14: six values of the two select controls of a pair, then the independence of the pairs and of the
vector length. -/
theorem shufIdentities : Obligations.ShufIdentities := by
  intro vl a b imm lo hi used bits
  refine ⟨fun h p hp => shuf_pair hp (h p hp) a b, fun h p hp => shuf_pair hp (h p hp) a b,
    fun h p hp => shuf_pair hp (h p hp) a a, fun h p hp => shuf_pair hp (h p hp) a a,
    fun h p hp => shuf_pair hp (h p hp) a a, fun h p hp => shuf_pair hp (h p hp) a a,
    fun p imm' h j hlo hhi => shuf_getElem_congr (fun _ => h j hlo hhi) a b,
    fun wide j hj hle => ?_⟩
  rw [shuf_getElem_of_lt hj, shuf_getElem_of_lt (hj.trans_le hle)]

/-- Settles O26: a form hands its immediate to the selection and to nothing else. -/
theorem ignoredImmediateBitsHaveNoEffect : Obligations.IgnoredImmediateBitsHaveNoEffect := by
  intro s pfx d s1 k z b rm imm imm'
  refine ⟨fun h => ⟨?_, ?_, ?_, ?_, ?_⟩, fun h => ⟨?_, ?_, ?_⟩⟩
  · exact legacyShuffle_congr_imm h
  · exact legacyShuffle_congr_imm h
  · exact vexShuffle_congr_imm h
  · exact vexShuffle_congr_imm h
  · exact evexShuffle_congr_imm h
  · exact vexShuffle_congr_imm h
  · exact vexShuffle_congr_imm h
  · exact evexShuffle_congr_imm h

/-- Settles O52: a step runs the fetched instruction, which writes its destination and `pc`. -/
theorem stepChangesOneRegisterAndPc : Obligations.StepChangesOneRegisterAndPc := by
  intro s t hstep
  obtain ⟨i, hfetch, hexec⟩ := step_next.1 hstep
  exact ⟨i, hfetch, changesOnly_of_exec hexec⟩

end Sys2Proof.Proofs

/-! # Proofs: a form whose operand can be read completes, and the bits above 127 -/

namespace Sys2Proof.Machine

theorem broadcast_getElem (vl : VecLen) (q : Elem) (j : Fin 8) :
    (broadcast vl q)[j] = if j.val < vl.elems then q else 0 := by
  match j with
  | 0 | 1 | 2 | 3 | 4 | 5 | 6 | 7 => rfl

end Sys2Proof.Machine

namespace Sys2Proof.Safety

open Sys2Proof.Machine

/-! ### The selection reads SRC2 below the vector length only (R80, R81) -/

/-- A select control of an element below the vector length stays below it: the elements come in pairs. -/
theorem pairElem_congr {vl : VecLen} {v v' : Vec} (h : ∀ j : Fin 8, j.val < vl.elems → v'[j] = v[j]) {j : Fin 8}
    (hj : j.val < vl.elems) (imm : Byte) : pairElem imm j v' = pairElem imm j v := by
  have hbit := Bool.toNat_le (imm.getLsbD j.val)
  have heven : vl.elems % 2 = 0 := by cases vl <;> rfl
  have hlt : 2 * (j.val / 2) + (imm.getLsbD j.val).toNat < vl.elems := by omega
  exact h ⟨_, hlt.trans_le vl.elems_le_eight⟩ hlt

theorem shuf_congr_src2 {vl : VecLen} {b b' : Vec} (h : ∀ j : Fin 8, j.val < vl.elems → b'[j] = b[j]) (a : Vec)
    (imm : Byte) : shuf vl a b' imm = shuf vl a b imm := by
  refine vec_ext fun j => ?_
  by_cases hj : j.val < vl.elems
  · rw [shuf_getElem_of_lt hj, shuf_getElem_of_lt hj, selected, selected, pairElem_congr h hj]
  · rw [shuf_getElem_of_le (Nat.not_lt.1 hj), shuf_getElem_of_le (Nat.not_lt.1 hj)]

section forms

variable {i : Instr} {s t : State} {b b' : Vec}

/-- Values of SRC2 that agree below the vector length give the same new destination. -/
theorem newDest_congr_source (h : ∀ j : Fin 8, j.val < i.vl.elems → b'[j] = b[j]) :
    newDest i s b' = newDest i s b := by
  simp only [newDest, shuf_congr_src2 h]

/-! ### Completion of any form (R88) -/

theorem operandAt_getElem (i : Instr) (m : Memory) (ea : Nat) {j : Fin 8} (hj : j.val < i.vl.elems) :
    (operandAt i m ea)[j] = Memory.read64 m (if i.broadcast then ea else ea + 8 * j.val) := by
  rw [operandAt]
  split
  · rw [broadcast_getElem, if_pos hj]
  · rw [Memory.readVec_getElem, if_pos hj]

/-- A form reads as SRC2 what claims say that SRC2 holds. -/
theorem source_agrees_of_sourceIs (h : sourceIs s i b) :
    ∃ b', source i s = .ok b' ∧ ∀ j : Fin 8, j.val < i.vl.elems → b'[j] = b[j] := by
  obtain ⟨b', hb'⟩ := source_of_sourceIs h
  refine ⟨b', hb', fun j hj => ?_⟩
  cases hrm : i.src2 with
  | reg r =>
    rw [source_of_reg hrm] at hb'
    cases hb'
    exact ((sourceIs_reg hrm).1 h j hj).symm
  | mem m =>
    obtain ⟨ea, haddr, -, -, hval⟩ := (sourceIs_mem hrm).1 h
    rw [source_of_mem hrm] at hb'
    cases hcheck : checkedAddress (i.family == .legacy) s i.pfx i.len (dispScale i) (operandBytes i) m with
    | error e => rw [hcheck] at hb'; cases hb'
    | ok a =>
      rw [hcheck] at hb'
      cases hb'
      obtain ⟨ea', haddr', rfl, -⟩ := checkedAddress_ok.1 hcheck
      cases haddr.symm.trans haddr'
      rw [operandAt_getElem i s.mem _ hj, hval j hj]

/-- A form that may run, fits and has a readable operand completes. -/
theorem exec_of_sourceIs (hready : ready s i) (hfits : fits s i) (hsource : sourceIs s i b) :
    exec i s = .next ((s.setVreg i.dest (newDest i s b)).advance i.len) := by
  obtain ⟨b', hb', hagree⟩ := source_agrees_of_sourceIs hsource
  exact exec_next.2 ⟨hready, hfits, b', hb', by rw [newDest_congr_source hagree]⟩

/-- Completion as claims state it: the frame, and the new destination. -/
theorem completes_of_sourceIs (hready : ready s i) (hfits : fits s i) (hsource : sourceIs s i b) :
    ∃ t, exec i s = .next t ∧ changesOnly s t i.dest i.len ∧ t.vreg i.dest = newDest i s b :=
  ⟨_, exec_of_sourceIs hready hfits hsource, changesOnly_setVreg_advance .., by
    rw [advance_vreg, setVreg_vreg_same]⟩

theorem vreg_dest_of_exec (h : exec i s = .next t) : ∃ b, t.vreg i.dest = newDest i s b := by
  obtain ⟨-, -, b, -, rfl⟩ := exec_next.1 h
  exact ⟨b, by rw [advance_vreg, setVreg_vreg_same]⟩

/-! ### The new destination element by element (R90, R95) -/

theorem newDest_of_legacy (h : i.family = .legacy) (s : State) (b : Vec) :
    newDest i s b = keepUpper .v128 (s.vreg i.dest) (shuf .v128 (s.vreg i.dest) b i.imm8) := by
  cases i <;> simp [Instr.family] at h <;> rfl

theorem newDest_of_vex128 (h : i.family = .vex) (hvl : i.vl = .v128) (s : State) (b : Vec) :
    newDest i s b = shuf .v128 (s.vreg i.src1) b i.imm8 := by
  simp only [newDest, h, hvl, vexUpper]

/-- The legacy form selects the low two elements and keeps the others (R90). -/
theorem newDest_legacy_getElem (h : i.family = .legacy) (s : State) (b : Vec) (j : Fin 8) :
    (newDest i s b)[j] =
      if j.val < 2 then selected i.imm8 j (s.vreg i.dest) b else (s.vreg i.dest)[j] := by
  rw [newDest_of_legacy h, keepUpper_getElem, VecLen.elems_v128]
  split
  · next hj => exact shuf_getElem_of_lt (vl := .v128) hj _ _ _
  · rfl

/-- The VEX.128 form selects the low two elements and zeroes the others (R95). -/
theorem newDest_vex128_getElem (h : i.family = .vex) (hvl : i.vl = .v128) (s : State) (b : Vec) (j : Fin 8) :
    (newDest i s b)[j] = if j.val < 2 then selected i.imm8 j (s.vreg i.src1) b else 0 := by
  rw [newDest_of_vex128 h hvl]
  split
  · next hj => exact shuf_getElem_of_lt (vl := .v128) hj _ _ _
  · next hj => exact shuf_getElem_of_le (vl := .v128) (Nat.not_lt.1 hj) _ _ _

/-- The completion of any legacy form (R90). -/
theorem legacy_completes (h : i.family = .legacy) (hready : ready s i) (hfits : fits s i) (hsource : sourceIs s i b) :
    ∃ t, exec i s = .next t ∧ changesOnly s t i.dest i.len ∧
      ∀ j : Fin 8, (t.vreg i.dest)[j] =
        if j.val < 2 then selected i.imm8 j (s.vreg i.dest) b else (s.vreg i.dest)[j] := by
  obtain ⟨t, hexec, hframe, hdest⟩ := completes_of_sourceIs hready hfits hsource
  exact ⟨t, hexec, hframe, fun j => by rw [hdest, newDest_legacy_getElem h]⟩

variable {j : Fin 8}

theorem legacy_keeps_upper (h : i.family = .legacy) (hj : 2 ≤ j.val) (hexec : exec i s = .next t) :
    (t.vreg i.dest)[j] = (s.vreg i.dest)[j] := by
  obtain ⟨b, hdest⟩ := vreg_dest_of_exec hexec
  rw [hdest, newDest_legacy_getElem h, if_neg (Nat.not_lt.2 hj)]

theorem vex128_zeroes_upper (h : i.family = .vex) (hvl : i.vl = .v128) (hj : 2 ≤ j.val) (hexec : exec i s = .next t) :
    (t.vreg i.dest)[j] = 0 := by
  obtain ⟨b, hdest⟩ := vreg_dest_of_exec hexec
  rw [hdest, newDest_vex128_getElem h hvl, if_neg (Nat.not_lt.2 hj)]

end forms

end Sys2Proof.Safety

namespace Sys2Proof.Proofs

open Sys2Proof.Machine Sys2Proof.Safety

/-- Settles O20: both rows are of the legacy family, whose forms complete whenever their operand can be read. -/
theorem legacyFormsComplete : Obligations.LegacyFormsComplete := by
  intro s pfx d rm imm b i hi hready hfits hsource
  obtain rfl | rfl : i = .shufpd pfx d rm imm ∨ i = .shufpdRex pfx d rm imm := by simpa using hi
  · exact legacy_completes rfl hready hfits hsource
  · exact legacy_completes rfl hready hfits hsource

/-- Settles O31, from the elements above 127 of the new destination of each family. -/
theorem legacyKeepsWhatVex128Zeroes : Obligations.LegacyKeepsWhatVex128Zeroes := by
  intro s t pfx d s1 rm imm j hj
  refine ⟨fun i hi hexec => ?_, fun i hi hexec => ?_⟩
  · obtain rfl | rfl : i = .shufpd pfx d rm imm ∨ i = .shufpdRex pfx d rm imm := by simpa using hi
    · exact legacy_keeps_upper rfl hj hexec
    · exact legacy_keeps_upper rfl hj hexec
  · obtain rfl | rfl : i = .vshufpdVex2L128 pfx d s1 rm imm ∨ i = .vshufpdVex3L128 pfx d s1 rm imm := by
      simpa using hi
    · exact vex128_zeroes_upper rfl rfl hj hexec
    · exact vex128_zeroes_upper rfl rfl hj hexec

end Sys2Proof.Proofs

/-! # Proofs: the VEX forms complete, and the bits above 255 -/

namespace Sys2Proof.Machine

/-- Above 255 a VEX.256 form keeps the old elements or leaves those of its result (R97). -/
theorem vexUpper_v256_getElem_of_le {j : Fin 8} (h : 4 ≤ j.val) (u : Config.Vex256Upper) (old t : Vec) :
    (vexUpper u .v256 old t)[j] = if u = .unmodified then old[j] else t[j] := by
  cases u with
  | unmodified => exact (keepUpper_getElem .v256 old t j).trans (if_neg (Nat.not_lt.2 h))
  | zeroed => rfl

end Sys2Proof.Machine

namespace Sys2Proof.Safety

open Sys2Proof.Machine

section forms

variable {i : Instr} {s t : State} {b : Vec} {j : Fin 8}

/-- The completion of any VEX.128 form (R95). -/
theorem vex128_completes (h : i.family = .vex) (hvl : i.vl = .v128) (hready : ready s i) (hfits : fits s i)
    (hsource : sourceIs s i b) :
    ∃ t, exec i s = .next t ∧ changesOnly s t i.dest i.len ∧
      ∀ j : Fin 8, (t.vreg i.dest)[j] = if j.val < 2 then selected i.imm8 j (s.vreg i.src1) b else 0 := by
  obtain ⟨t, hexec, hframe, hdest⟩ := completes_of_sourceIs hready hfits hsource
  exact ⟨t, hexec, hframe, fun j => by rw [hdest, newDest_vex128_getElem h hvl]⟩

/-! ### The new destination of a VEX.256 form (R96, R97) -/

theorem newDest_of_vex256 (h : i.family = .vex) (hvl : i.vl = .v256) (s : State) (b : Vec) :
    newDest i s b = vexUpper s.launch.vex256Upper .v256 (s.vreg i.dest) (shuf .v256 (s.vreg i.src1) b i.imm8) := by
  simp only [newDest, h, hvl]

theorem newDest_vex256_getElem_of_lt (h : i.family = .vex) (hvl : i.vl = .v256) (hj : j.val < 4) (s : State)
    (b : Vec) :
    (newDest i s b)[j] = selected i.imm8 j (s.vreg i.src1) b := by
  rw [newDest_of_vex256 h hvl, vexUpper_v256_getElem hj]
  exact shuf_getElem_of_lt (vl := .v256) hj _ _ _

theorem newDest_vex256_getElem_of_le (h : i.family = .vex) (hvl : i.vl = .v256) (hj : 4 ≤ j.val) (s : State)
    (b : Vec) :
    (newDest i s b)[j] = if s.launch.vex256Upper = .unmodified then (s.vreg i.dest)[j] else 0 := by
  rw [newDest_of_vex256 h hvl, vexUpper_v256_getElem_of_le hj, shuf_getElem_of_le (vl := .v256) hj]

/-- The completion of any VEX.256 form (R96, R97). -/
theorem vex256_completes (h : i.family = .vex) (hvl : i.vl = .v256) (hready : ready s i) (hfits : fits s i)
    (hsource : sourceIs s i b) :
    ∃ t, exec i s = .next t ∧ changesOnly s t i.dest i.len ∧
      ∀ j : Fin 8, (t.vreg i.dest)[j] =
        if j.val < 4 then selected i.imm8 j (s.vreg i.src1) b
        else if s.launch.vex256Upper = .unmodified then (s.vreg i.dest)[j] else 0 := by
  obtain ⟨t, hexec, hframe, hdest⟩ := completes_of_sourceIs hready hfits hsource
  refine ⟨t, hexec, hframe, fun j => ?_⟩
  rw [hdest]
  split
  · next hj => exact newDest_vex256_getElem_of_lt h hvl hj s b
  · next hj => exact newDest_vex256_getElem_of_le h hvl (Nat.not_lt.1 hj) s b

/-! ### The two readings of R97 -/

/-- The state under one of the two values of `VEX256_UPPER`. -/
def withUpper (s : State) (u : Config.Vex256Upper) : State := { s with launch := { s.launch with vex256Upper := u } }

@[simp] theorem withUpper_vex256Upper (s : State) (u : Config.Vex256Upper) :
    (withUpper s u).launch.vex256Upper = u := rfl

@[simp] theorem withUpper_vreg (s : State) (u : Config.Vex256Upper) (r : VReg) :
    (withUpper s u).vreg r = s.vreg r := rfl

/-- The operand read does not depend on `VEX256_UPPER`. -/
theorem source_withUpper (i : Instr) (s : State) (u : Config.Vex256Upper) : source i (withUpper s u) = source i s := rfl

variable {u u' : Config.Vex256Upper} {t' : State}

theorem vex256_upper_of_exec (h : i.family = .vex) (hvl : i.vl = .v256) (hj : 4 ≤ j.val)
    (hexec : exec i (withUpper s u) = .next t) :
    (t.vreg i.dest)[j] = if u = .unmodified then (s.vreg i.dest)[j] else 0 := by
  obtain ⟨b, hdest⟩ := vreg_dest_of_exec hexec
  rw [hdest, newDest_vex256_getElem_of_le h hvl hj, withUpper_vex256Upper, withUpper_vreg]

/-- Over a destination that holds nothing above 255, keeping and zeroing are the same. -/
theorem newDest_withUpper_congr (h : i.family = .vex) (hvl : i.vl = .v256)
    (hzero : ∀ j : Fin 8, 4 ≤ j.val → (s.vreg i.dest)[j] = 0) (u u' : Config.Vex256Upper) (b : Vec) :
    newDest i (withUpper s u) b = newDest i (withUpper s u') b := by
  refine vec_ext fun j => ?_
  by_cases hj : j.val < 4
  · simp only [newDest_vex256_getElem_of_lt h hvl hj, withUpper_vreg]
  · have hle := Nat.not_lt.1 hj
    simp only [newDest_vex256_getElem_of_le h hvl hle, withUpper_vreg, hzero j hle, ite_self]

theorem vex256_readings_agree (h : i.family = .vex) (hvl : i.vl = .v256)
    (hzero : ∀ j : Fin 8, 4 ≤ j.val → (s.vreg i.dest)[j] = 0) (hexec : exec i (withUpper s u) = .next t)
    (hexec' : exec i (withUpper s u') = .next t') : t.v = t'.v := by
  obtain ⟨-, -, b, hb, rfl⟩ := exec_next.1 hexec
  obtain ⟨-, -, b', hb', rfl⟩ := exec_next.1 hexec'
  rw [source_withUpper] at hb hb'
  obtain rfl : b = b' := Except.ok.inj (hb.symm.trans hb')
  rw [newDest_withUpper_congr h hvl hzero u u' b]
  rfl

end forms

end Sys2Proof.Safety

namespace Sys2Proof.Proofs

open Sys2Proof.Machine Sys2Proof.Safety

/-- Settles O21: both rows are of the VEX family, and a VEX form completes whenever its operand can be read, aligned or
not. -/
theorem vex128FormsComplete : Obligations.Vex128FormsComplete := by
  intro s pfx d s1 rm imm b i hi hready hfits hsource
  obtain rfl | rfl : i = .vshufpdVex2L128 pfx d s1 rm imm ∨ i = .vshufpdVex3L128 pfx d s1 rm imm := by simpa using hi
  · exact vex128_completes rfl rfl hready hfits hsource
  · exact vex128_completes rfl rfl hready hfits hsource

/-- Settles O22, as O21 with the upper elements of R97. -/
theorem vex256FormsComplete : Obligations.Vex256FormsComplete := by
  intro s pfx d s1 rm imm b i hi hready hfits hsource
  obtain rfl | rfl : i = .vshufpdVex2L256 pfx d s1 rm imm ∨ i = .vshufpdVex3L256 pfx d s1 rm imm := by simpa using hi
  · exact vex256_completes rfl rfl hready hfits hsource
  · exact vex256_completes rfl rfl hready hfits hsource

/-- Settles O30: the upper elements of the destination under each value; with `MAX_VL = 256` the invariant has them 0
before the write. -/
theorem vex256UpperBitsFollowTheParameter : Obligations.Vex256UpperBitsFollowTheParameter := by
  intro s pfx d s1 rm imm i hi su sz
  obtain ⟨hfam, hvl, rfl⟩ : i.family = .vex ∧ i.vl = .v256 ∧ i.dest = d := by
    obtain rfl | rfl : i = .vshufpdVex2L256 pfx d s1 rm imm ∨ i = .vshufpdVex3L256 pfx d s1 rm imm := by
      simpa using hi
    · exact ⟨rfl, rfl, rfl⟩
    · exact ⟨rfl, rfl, rfl⟩
  refine ⟨fun t hexec j hj => ?_, fun t hexec j hj => ?_, fun t t' hinv hmax hexec hexec' => ?_⟩
  · exact vex256_upper_of_exec (u := .unmodified) hfam hvl hj hexec
  · exact vex256_upper_of_exec (u := .zeroed) hfam hvl hj hexec
  · obtain ⟨-, habove, -⟩ := hinv
    have hzero (j : Fin 8) (hj : 4 ≤ j.val) : (s.vreg i.dest)[j] = 0 := habove i.dest j (by rw [hmax]; exact hj)
    exact vex256_readings_agree (u := .unmodified) (u' := .zeroed) hfam hvl hzero hexec hexec'

end Sys2Proof.Proofs

/-! # Proofs: the refusals of the EVEX forms, and the faults of an operand read -/

namespace Sys2Proof

/-- `mod = 11` announces a register (R54). -/
theorem takeOperands_isReg {mode64 addr67 hi x b : Bool} {modrm : Byte} {tail rest : List Byte} {reg : BitVec 3}
    {rm : Rm} {imm : Byte} (hmod : field modrm 6 2 = 3#2)
    (h : takeOperands mode64 addr67 hi x b (modrm :: tail) = .ok ((reg, rm, imm), rest)) : rm.isReg = true := by
  obtain ⟨modrm', tail', hbytes, -, hrm⟩ := takeOperands_ok h
  cases hbytes
  rw [takeRm, if_pos hmod] at hrm
  cases hrm
  rfl

/-- An admitted EVEX encoding that broadcasts has a memory operand (R115). -/
theorem decode_evex_broadcast {mode64 : Bool} {bs tail rest : List Byte} {p0 p1 p2 modrm : Byte} {i : Instr}
    (hbs : (takePrefixes bs).2 = 0x62#8 :: p0 :: p1 :: p2 :: 0xC6#8 :: modrm :: tail)
    (h : decode mode64 bs = .ok (i, rest)) (hb : bitOf p2 4 = true) : field modrm 6 2 ≠ 3#2 := by
  intro hmod
  rw [decode_evex (Prod.ext rfl hbs)] at h
  obtain ⟨-, -, _, _, _, _, _, _, _, hbytes, -, -, -, -, hops, hbc, -⟩ := decodeEvex_ok h
  cases hbytes
  exact hbc ⟨hb, takeOperands_isReg hmod hops⟩

end Sys2Proof

namespace Sys2Proof.Machine

/-- An entry of the `MemFault` table speaks of the read, and `f` is the fault of its cause (R35, R132). -/
def EntryFault (l : Config.Launch) (σ : Segment) (ea n : Nat) (f : Fault) : Prop :=
  ∃ e ∈ l.memFault, entryApplies σ ea n e = true ∧ f = causeFault σ e.cause

section faults

variable {l : Config.Launch} {σ : Segment} {ea n : Nat} {f : Fault} {e : Config.FaultEntry}
  {p : Config.FaultCause → Bool}

theorem entryFault_of_platformFault (h : platformFault l σ ea n p = some f) : EntryFault l σ ea n f := by
  obtain ⟨e, hfind, rfl⟩ := Option.map_eq_some_iff.1 h
  have happ := List.find?_some hfind
  exact ⟨e, List.mem_of_find?_eq_some hfind, (Bool.and_eq_true_iff.1 happ).1, rfl⟩

/-- An applicable entry whose cause is among `p` gives an answer among `p`. -/
theorem platformFault_ne_none (he : e ∈ l.memFault) (happ : entryApplies σ ea n e = true) (hp : p e.cause = true) :
    platformFault l σ ea n p ≠ none := by
  rw [platformFault, Ne, Option.map_eq_none_iff, List.find?_eq_none]
  exact fun hnone => hnone e he (by rw [happ, hp]; rfl)

theorem entryFault_of_memFault (h : memFault l σ ea n = some f) : EntryFault l σ ea n f := by
  rw [memFault, Option.or_eq_some_iff, Option.or_eq_some_iff] at h
  obtain hseg | ⟨-, hpage | ⟨-, halign⟩⟩ := h
  · exact entryFault_of_platformFault hseg
  · exact entryFault_of_platformFault hpage
  · exact entryFault_of_platformFault halign

/-- Each cause is asked for, so an applicable entry is answered (R132, R135). -/
theorem memFault_ne_none (he : e ∈ l.memFault) (happ : entryApplies σ ea n e = true) : memFault l σ ea n ≠ none := by
  rw [memFault, Ne, Option.or_eq_none_iff, Option.or_eq_none_iff]
  rintro ⟨hseg, hpage, halign⟩
  cases hc : e.cause with
  | segment => exact platformFault_ne_none he happ (by rw [hc]; rfl) hseg
  | page code => exact platformFault_ne_none he happ (by rw [hc]; rfl) hpage
  | alignment => exact platformFault_ne_none he happ (by rw [hc]; rfl) halign

/-- The fault of an operand of which an entry speaks: GP for a misaligned operand, else that of an entry (R133,
R135). -/
theorem operandFault_of_entry (al : Bool) (he : e ∈ l.memFault) (happ : entryApplies σ ea n e = true) :
    ∃ f, operandFault al l σ ea n = some f ∧
      ((misaligned al ea = true ∧ f = .generalProtection) ∨ EntryFault l σ ea n f) := by
  unfold operandFault
  split
  · next hmis =>
    cases hseg : platformFault l σ ea n isSegmentCause with
    | none => exact ⟨_, rfl, .inl ⟨hmis, rfl⟩⟩
    | some f => exact ⟨f, rfl, .inr (entryFault_of_platformFault hseg)⟩
  · obtain ⟨f, hf⟩ := Option.ne_none_iff_exists'.1 (memFault_ne_none he happ)
    exact ⟨f, hf, .inr (entryFault_of_memFault hf)⟩

end faults

/-- Only an operand that needs alignment is misaligned. -/
theorem misaligned_iff {al : Bool} {ea : Nat} : misaligned al ea = true ↔ al = true ∧ ea % 16 ≠ 0 := by
  simp [misaligned, Config.legacyAlignFault]

end Sys2Proof.Machine

namespace Sys2Proof.Proofs

open Sys2Proof.Machine Sys2Proof.Safety

/-- Settles O7: the decoder reads a register for `mod = 11`, and refuses it under broadcast. -/
theorem evexBroadcastOfARegisterIsRefused : Obligations.EvexBroadcastOfARegisterIsRefused := by
  intro mode64 bs p0 p1 p2 modrm rest hbs hb hmod
  exact decode_error_of_not_ok fun i _ hdec => decode_evex_broadcast hbs hdec hb hmod

/-- Settles O8, from what the payload bytes of an admitted EVEX encoding satisfy. -/
theorem evexZeroingWithoutAMaskIsRefused : Obligations.EvexZeroingWithoutAMaskIsRefused := by
  intro mode64 bs p0 p1 p2 rest hbs hz hk
  refine decode_error_of_not_ok fun i _ hdec => ?_
  obtain ⟨-, -, -, hmask, -⟩ := evexProblem_none.1 (decode_evex_payload hbs hdec)
  exact hmask ⟨hz, hk⟩

/-- Settles O40: the whole operand is checked before the mask and the immediate are read. -/
theorem unreadableOperandFaultsWhateverTheMask : Obligations.UnreadableOperandFaultsWhateverTheMask := by
  rintro s i m ea hready hrm haddr hside ⟨e, he, happ⟩
  obtain ⟨f, hfault, hwhy⟩ := operandFault_of_entry (i.family == .legacy) he happ
  have hstop := operandStop_of_fault (touchesSideEffect_false.2 hside) hfault
  refine ⟨f, exec_of_address_error hready hrm (checkedAddress_of_stop haddr hstop), ?_⟩
  obtain ⟨hmis, hgp⟩ | hentry := hwhy
  · obtain ⟨hlegacy, halign⟩ := misaligned_iff.1 hmis
    exact .inl ⟨eq_of_beq hlegacy, halign, hgp⟩
  · exact .inr hentry

end Sys2Proof.Proofs

/-! # Proofs: the new destination of the EVEX forms -/

namespace Sys2Proof.Safety

open Sys2Proof.Machine

/-! ### The writemask as the machine reads it (R106, R108) -/

theorem maskBit_writemask {s : State} {k : BitVec 3} {j : Fin 8} :
    maskBit (writemask s k) j.val = true ↔ written s k j := by
  unfold writemask written
  split
  · next hk => exact iff_of_true rfl (.inl hk)
  · next hk => exact (or_iff_right hk).symm

section masks

variable {s : State} {vl : VecLen} {k : BitVec 3} {j : Fin 8}

theorem maskWrite_getElem_of_written (hj : j.val < vl.elems) (h : written s k j) (t old : Vec) (z : Bool) :
    (maskWrite vl t old (writemask s k) z)[j] = t[j] := by
  rw [maskWrite_getElem, if_pos hj, if_pos (maskBit_writemask.2 h)]

theorem maskWrite_getElem_of_not_written (hj : j.val < vl.elems) (h : ¬written s k j) (t old : Vec) (z : Bool) :
    (maskWrite vl t old (writemask s k) z)[j] = if z then 0 else old[j] := by
  rw [maskWrite_getElem, if_pos hj, if_neg (mt maskBit_writemask.1 h)]

theorem maskWrite_getElem_of_le (hj : vl.elems ≤ j.val) (t old : Vec) (mask : Option Word) (z : Bool) :
    (maskWrite vl t old mask z)[j] = 0 := by
  rw [maskWrite_getElem, if_neg (Nat.not_lt.2 hj)]

end masks

section forms

variable {i : Instr} {s t : State} {b : Vec} {j : Fin 8}

/-! ### The new destination element by element (R106, R107) -/

theorem newDest_of_evex (h : i.family = .evex) (s : State) (b : Vec) :
    newDest i s b =
      maskWrite i.vl (shuf i.vl (s.vreg i.src1) b i.imm8) (s.vreg i.dest) (writemask s i.mask) i.zeroing := by
  simp only [newDest, h]

theorem newDest_evex_getElem_of_written (h : i.family = .evex) (hj : j.val < i.vl.elems) (hw : written s i.mask j)
    (b : Vec) : (newDest i s b)[j] = selected i.imm8 j (s.vreg i.src1) b := by
  rw [newDest_of_evex h, maskWrite_getElem_of_written hj hw, shuf_getElem_of_lt hj]

theorem newDest_evex_getElem_of_not_written (h : i.family = .evex) (hj : j.val < i.vl.elems)
    (hw : ¬written s i.mask j) (b : Vec) :
    (newDest i s b)[j] = if i.zeroing then 0 else (s.vreg i.dest)[j] := by
  rw [newDest_of_evex h, maskWrite_getElem_of_not_written hj hw]

theorem newDest_evex_getElem_of_le (h : i.family = .evex) (hj : i.vl.elems ≤ j.val) (s : State) (b : Vec) :
    (newDest i s b)[j] = 0 := by
  rw [newDest_of_evex h, maskWrite_getElem_of_le hj]

/-- The completion of any EVEX form (R105 to R107, R110 to R112). -/
theorem evex_completes (h : i.family = .evex) (hready : ready s i) (hfits : fits s i) (hsource : sourceIs s i b) :
    ∃ t, exec i s = .next t ∧ changesOnly s t i.dest i.len ∧
      ∀ j : Fin 8,
        (j.val < i.vl.elems → written s i.mask j → (t.vreg i.dest)[j] = selected i.imm8 j (s.vreg i.src1) b) ∧
        (j.val < i.vl.elems → ¬written s i.mask j →
          (t.vreg i.dest)[j] = if i.zeroing then 0 else (s.vreg i.dest)[j]) ∧
        (i.vl.elems ≤ j.val → (t.vreg i.dest)[j] = 0) := by
  obtain ⟨t, hexec, hframe, hdest⟩ := completes_of_sourceIs hready hfits hsource
  refine ⟨t, hexec, hframe, fun j => ?_⟩
  rw [hdest]
  exact ⟨fun hj hw => newDest_evex_getElem_of_written h hj hw b,
    fun hj hw => newDest_evex_getElem_of_not_written h hj hw b,
    fun hj => newDest_evex_getElem_of_le h hj s b⟩

/-- Merging keeps an element whose mask bit is 0 (R106, R109). -/
theorem evex_keeps_masked_off (h : i.family = .evex) (hk : i.mask ≠ 0) (hz : i.zeroing = false)
    (hj : j.val < i.vl.elems) (hbit : (s.kreg i.mask).getLsbD j.val = false) (hexec : exec i s = .next t) :
    (t.vreg i.dest)[j] = (s.vreg i.dest)[j] := by
  obtain ⟨b, hdest⟩ := vreg_dest_of_exec hexec
  have hoff : ¬written s i.mask j := not_or.2 ⟨hk, Bool.eq_false_iff.1 hbit⟩
  rw [hdest, newDest_evex_getElem_of_not_written h hj hoff, hz]
  rfl

/-! ### The old destination without merging (R109) -/

/-- SRC2 is read from no vector register but the one it names. -/
theorem source_setVreg {d : VReg} (h : i.src2 ≠ .reg d) (s : State) (old : Vec) :
    source i (s.setVreg d old) = source i s := by
  cases hrm : i.src2 with
  | reg r =>
    have hne : r ≠ d := by
      rintro rfl
      exact h hrm
    rw [source_of_reg hrm, source_of_reg hrm, setVreg_vreg_ne hne]
  | mem m => rw [source_of_mem hrm, source_of_mem hrm]; rfl

/-- With no writemask, and with zeroing, the masked write does not read the old destination. -/
theorem newDest_evex_setVreg (h : i.family = .evex) (hread : i.mask = 0 ∨ i.zeroing = true) (hs1 : i.dest ≠ i.src1)
    (s : State) (old b : Vec) : newDest i (s.setVreg i.dest old) b = newDest i s b := by
  rw [newDest_of_evex h, newDest_of_evex h, setVreg_vreg_ne hs1.symm]
  obtain hk | hz := hread
  · rw [hk, writemask_zero, writemask_zero, maskWrite_shuf_none, maskWrite_shuf_none]
  · rw [hz]
    exact maskWrite_zeroing ..

/-- The old destination has no influence without merging, where the destination is no source. -/
theorem evex_ignores_old_dest (h : i.family = .evex) (hread : i.mask = 0 ∨ i.zeroing = true)
    (hs1 : i.dest ≠ i.src1) (hrm : i.src2 ≠ .reg i.dest) (hexec : exec i s = .next t) (old : Vec) :
    ∃ t', exec i (s.setVreg i.dest old) = .next t' ∧ t'.vreg i.dest = t.vreg i.dest := by
  obtain ⟨hready, hfits, b, hb, rfl⟩ := exec_next.1 hexec
  refine ⟨_, exec_next.2 ⟨hready, hfits, b, (source_setVreg hrm s old).trans hb, rfl⟩, ?_⟩
  simp only [advance_vreg, setVreg_vreg_same, newDest_evex_setVreg h hread hs1]

/-! ### A memory operand (R105, R114) -/

/-- The destination of a completed form with a memory operand. -/
theorem vreg_of_exec_mem {m : MemOperand} {ea : Word} (hm : i.src2 = .mem m)
    (haddr : effectiveAddress s i.pfx i.len (dispScale i) m = some ea) (h : exec i s = .next t) :
    t.vreg i.dest = newDest i s (operandAt i s.mem ea.toNat) := by
  obtain ⟨-, -, b, hb, rfl⟩ := exec_next.1 h
  rw [source_of_mem hm] at hb
  cases hcheck : checkedAddress (i.family == .legacy) s i.pfx i.len (dispScale i) (operandBytes i) m with
  | error e => rw [hcheck] at hb; cases hb
  | ok a =>
    rw [hcheck] at hb
    cases hb
    obtain ⟨ea', haddr', rfl, -⟩ := checkedAddress_ok.1 hcheck
    cases haddr.symm.trans haddr'
    rw [advance_vreg, setVreg_vreg_same]

end forms

section evexInstr

variable {s t : State} {vl : VecLen} {pfx : List Prefix} {d s1 : VReg} {k : BitVec 3} {z b : Bool} {rm : Rm}
  {imm : Byte}

@[simp] theorem evexInstr_family : (evexInstr vl pfx d k z s1 rm b imm).family = .evex := by cases vl <;> rfl
@[simp] theorem evexInstr_pfx : (evexInstr vl pfx d k z s1 rm b imm).pfx = pfx := by cases vl <;> rfl
@[simp] theorem evexInstr_vl : (evexInstr vl pfx d k z s1 rm b imm).vl = vl := by cases vl <;> rfl
@[simp] theorem evexInstr_dest : (evexInstr vl pfx d k z s1 rm b imm).dest = d := by cases vl <;> rfl
@[simp] theorem evexInstr_src1 : (evexInstr vl pfx d k z s1 rm b imm).src1 = s1 := by cases vl <;> rfl
@[simp] theorem evexInstr_src2 : (evexInstr vl pfx d k z s1 rm b imm).src2 = rm := by cases vl <;> rfl
@[simp] theorem evexInstr_mask : (evexInstr vl pfx d k z s1 rm b imm).mask = k := by cases vl <;> rfl
@[simp] theorem evexInstr_zeroing : (evexInstr vl pfx d k z s1 rm b imm).zeroing = z := by cases vl <;> rfl
@[simp] theorem evexInstr_broadcast : (evexInstr vl pfx d k z s1 rm b imm).broadcast = b := by cases vl <;> rfl
@[simp] theorem evexInstr_imm8 : (evexInstr vl pfx d k z s1 rm b imm).imm8 = imm := by cases vl <;> rfl

/-- The destination of an EVEX form with a full-width memory operand (R110 to R112). -/
theorem evex_vreg_of_exec_mem {m : MemOperand} {ea : Word}
    (haddr : effectiveAddress s pfx (evexInstr vl pfx d k z s1 (.mem m) false imm).len vl.bytes m = some ea)
    (h : exec (evexInstr vl pfx d k z s1 (.mem m) false imm) s = .next t) :
    t.vreg d =
      maskWrite vl (shuf vl (s.vreg s1) (Memory.readVec s.mem vl ea.toNat) imm) (s.vreg d) (writemask s k) z := by
  have hscale : dispScale (evexInstr vl pfx d k z s1 (.mem m) false imm) = vl.bytes := by simp [dispScale, operandBytes]
  have hdest := vreg_of_exec_mem evexInstr_src2 (by rwa [hscale, evexInstr_pfx]) h
  simpa [newDest_of_evex, operandAt] using hdest

end evexInstr

end Sys2Proof.Safety

namespace Sys2Proof.Proofs

open Sys2Proof.Machine Sys2Proof.Safety

/-- Settles O15: the bit that the masked write reads is whether the element is written. -/
theorem maskWriteFollowsTheMask : Obligations.MaskWriteFollowsTheMask := by
  intro s vl t old k z j hj
  refine ⟨fun hw => maskWrite_getElem_of_written hj hw t old z, fun hw hz => ?_, fun hw hz => ?_⟩
  · rw [maskWrite_getElem_of_not_written hj hw, hz]
    rfl
  · rw [maskWrite_getElem_of_not_written hj hw, hz]
    rfl

/-- Settles O23: an EVEX form completes whenever its operand can be read; `evexOk`, which R115 and R116 ask of the
encoding, is not needed for it. -/
theorem evex128FormCompletes : Obligations.Evex128FormCompletes := by
  intro s pfx d s1 k z bc rm imm b i _ hready hfits hsource
  exact evex_completes (i := i) rfl hready hfits hsource

/-- Settles O24, as O23 with four elements. -/
theorem evex256FormCompletes : Obligations.Evex256FormCompletes := by
  intro s pfx d s1 k z bc rm imm b i _ hready hfits hsource
  exact evex_completes (i := i) rfl hready hfits hsource

/-- Settles O25: at 512 bits every element is below the vector length. -/
theorem evex512FormCompletes : Obligations.Evex512FormCompletes := by
  intro s pfx d s1 k z bc rm imm b i _ hready hfits hsource
  obtain ⟨t, hexec, hframe, helems⟩ := evex_completes (i := i) rfl hready hfits hsource
  refine ⟨t, hexec, hframe, fun j => ?_⟩
  obtain ⟨hwritten, hmasked, -⟩ := helems j
  exact ⟨hwritten j.isLt, hmasked j.isLt⟩

/-- Settles O27: the masked write reads neither mask nor masking kind above the vector length. -/
theorem evexZeroesAboveTheVectorLength : Obligations.EvexZeroesAboveTheVectorLength := by
  intro s t i j hfam hexec hj
  obtain ⟨b, hdest⟩ := vreg_dest_of_exec hexec
  rw [hdest, newDest_evex_getElem_of_le hfam hj]

/-- Settles O28: a masked-off element is the only place where the old destination is read. -/
theorem onlyMergingReadsTheDestination : Obligations.OnlyMergingReadsTheDestination := by
  intro s t vl pfx d s1 k z b rm imm hexec
  refine ⟨fun hk hz j hj hbit => ?_, fun hread hs1 hrm old => ?_⟩
  · simpa using evex_keeps_masked_off (j := j) evexInstr_family (by simpa using hk) (by simpa using hz)
      (by simpa using hj) (by simpa using hbit) hexec
  · simpa using evex_ignores_old_dest evexInstr_family (by simpa using hread) (by simpa using hs1)
      (by simpa using hrm) hexec old

/-- Settles O32: the selection reads SRC2 below the vector length only, where the two operands hold the same value. -/
theorem registerAndMemoryOperandsAgree : Obligations.RegisterAndMemoryOperandsAgree := by
  intro s t t' vl pfx d s1 r k z m imm ea hreg hmem haddr hval
  have hagree (j : Fin 8) (hj : j.val < vl.elems) : (s.vreg r)[j] = (Memory.readVec s.mem vl ea.toNat)[j] := by
    rw [Memory.readVec_getElem, if_pos hj, hval j hj]
  rw [evex_vreg_of_exec_reg hreg, evex_vreg_of_exec_mem haddr hmem, shuf_congr_src2 hagree]

end Sys2Proof.Proofs

/-! # Proofs: missing features, disabled forms, and launches with facilities -/

namespace Sys2Proof.Safety

open Sys2Proof.Machine

/-! ### The rest of the gate (R130), in the order of R135 -/

/-- A form that exists and is not too long fails the gate at its enable, whatever `TS` is. -/
theorem formGate_of_not_enabled {i : Instr} {s : State} (hf : hasFeatures s.launch i = true)
    (hlen : i.vl.bits ≤ s.launch.maxVl.bits) (hen : enabled s.launch i = false) :
    formGate i s = some (.fault .invalidOpcode) := by
  simp [formGate, gate, hf, Nat.not_lt.2 hlen, hen]

/-- `TS` is the last check of the gate. -/
theorem formGate_of_ts {i : Instr} {s : State} (hf : hasFeatures s.launch i = true)
    (hlen : i.vl.bits ≤ s.launch.maxVl.bits) (hen : enabled s.launch i = true) (hts : s.launch.ts = true) :
    formGate i s = some (.fault .deviceNotAvailable) := by
  simp [formGate, gate, hf, Nat.not_lt.2 hlen, hen, hts]

end Sys2Proof.Safety

namespace Sys2Proof.Machine

/-- The facilities of the launch are what a fetch checks first (R145). -/
theorem fetch_of_facilities {s : State} (h : s.launch.facilities = true) : fetch s = .error .facilitiesEnabled := by
  simp [fetch, h]

end Sys2Proof.Machine

namespace Sys2Proof.Proofs

open Sys2Proof.Machine Sys2Proof.Safety

/-- Settles O37: the features are the first check of every form's gate, and a stop of the gate ends the form. -/
theorem missingFeatureRaisesInvalidOpcode : Obligations.MissingFeatureRaisesInvalidOpcode := by
  intro s i hmissing
  exact exec_of_gate (formGate_of_missing_feature hmissing)

/-- Settles O38: the gate asks for the enable first and for `TS` after it. -/
theorem disabledFormsFault : Obligations.DisabledFormsFault := by
  intro s i hf hlen
  refine ⟨fun hdisabled => ?_, fun hen hts => ?_⟩
  · exact exec_of_gate (formGate_of_not_enabled hf hlen hdisabled)
  · exact exec_of_gate (formGate_of_ts hf hlen hen hts)

/-- Settles O44, fault by fault of the table of R127. -/
theorem faultNumbers : Obligations.FaultNumbers := by
  refine ⟨?invalidOpcode, ?deviceNotAvailable, ?stackSegment, ?generalProtection, ?pageFault, ?alignmentCheck⟩
  case pageFault => exact fun code => ⟨rfl, rfl⟩
  all_goals exact ⟨rfl, rfl⟩

/-- Settles O49. -/
theorem launchWithFacilitiesIsRefused : Obligations.LaunchWithFacilitiesIsRefused := by
  intro s hfac
  exact step_of_fetch_error (fetch_of_facilities hfac)

end Sys2Proof.Proofs

/-! # Proofs: why a step refuses, programs that are not admitted, and termination -/

namespace Sys2Proof.Machine

/-! ### The refusals of the shared operations -/

theorem take_refused {e : Stop} {r : Refusal} : e.take = .refused r ↔ e = .refuse r := by
  cases e <;> simp [Stop.take]

/-- The gate refuses nothing but a vector length above `MAX_VL` (R16). -/
theorem gate_refuse {has en : Bool} {vl : VecLen} {s : State} {r : Refusal} (h : gate has en vl s = some (.refuse r)) :
    has = true ∧ s.launch.maxVl.bits < vl.bits := by
  unfold gate at h
  cases has with
  | false => simp at h
  | true =>
    refine ⟨rfl, ?_⟩
    by_contra hlen
    cases en <;> cases hts : s.launch.ts <;> simp [hlen, hts] at h

/-- The operand read refuses a location with a read side effect (R37) and an operand past the top (log 16). -/
theorem operandStop_refuse {al : Bool} {l : Config.Launch} {σ : Segment} {ea n : Nat} {r : Refusal}
    (h : operandStop al l σ ea n = some (.refuse r)) :
    touchesSideEffect l ea n = true ∨ r = .operandPastTop := by
  unfold operandStop at h
  split at h
  · next hside => exact .inl hside
  · split at h
    · simp at h
    · split at h <;> simp at h
      exact .inr h.symm

/-- An operand that has its place in the program is refused only for running past the top. -/
theorem checkedAddress_refuse {al : Bool} {s : State} {pfx : List Prefix} {len scale n : Nat} {m : MemOperand}
    {ea : Word} {r : Refusal} (haddr : effectiveAddress s pfx len scale m = some ea)
    (hside : touchesSideEffect s.launch ea.toNat n = false)
    (h : checkedAddress al s pfx len scale n m = .error (.refuse r)) : r = .operandPastTop := by
  simp only [checkedAddress, haddr] at h
  split at h
  · next e hstop =>
    cases h
    obtain htouch | hr := operandStop_refuse hstop
    · simp [hside] at htouch
    · exact hr
  · cases h

theorem complete_of_fits {s : State} {len : Nat} (h : s.pc.toNat + len < 2 ^ addrBits s.launch) (d : VReg) (val : Vec) :
    complete s len d val = .next ((s.setVreg d val).advance len) := if_pos h

/-- Under an admitted launch a fetch at the end address finds that the run has ended. -/
theorem fetch_of_end {s : State} (hfac : s.launch.facilities = false) (hcons : launchConsistent s.launch = true)
    (hpc : s.pc = s.progEnd) : fetch s = .error .programEnded := by
  simp [fetch, hfac, hcons, hpc]

end Sys2Proof.Machine

namespace Sys2Proof.Safety

open Sys2Proof.Machine

/-! ### What a form of an admitted program can be refused for -/

/-- Under a launch that obeys R16, a form whose features are present is no longer than `MAX_VL`. -/
theorem vl_le_maxVl_of_hasFeatures {l : Config.Launch} {i : Instr} (hcons : launchConsistent l = true)
    (hfeat : hasFeatures l i = true) : i.vl.bits ≤ l.maxVl.bits := by
  obtain ⟨havx, havx512⟩ := launchConsistent_iff.1 hcons
  cases hfam : i.family with
  | legacy =>
    have hvl : i.vl = .v128 := by cases i <;> simp [Instr.family] at hfam <;> rfl
    rw [hvl]
    cases l.maxVl <;> decide
  | vex =>
    have hvl : i.vl.bits ≤ 256 := by cases i <;> simp [Instr.family] at hfam <;> simp [Instr.vl]
    simp only [hasFeatures, hfam] at hfeat
    cases hmax : l.maxVl with
    | v128 => exact absurd hmax (havx hfeat)
    | v256 => exact hvl
    | v512 => exact hvl.trans (by decide)
  | evex =>
    simp only [hasFeatures, hfam, Bool.and_eq_true] at hfeat
    rw [havx512 hfeat.1]
    cases i.vl <;> decide

/-- Under a launch that obeys R16 the gate of a form opens or faults. -/
theorem formGate_ne_refuse {i : Instr} {s : State} (hcons : launchConsistent s.launch = true) (r : Refusal) :
    formGate i s ≠ some (.refuse r) := by
  intro h
  obtain ⟨hfeat, hlen⟩ := gate_refuse h
  exact absurd (vl_le_maxVl_of_hasFeatures hcons hfeat) (Nat.not_le.2 hlen)

/-- The operand of a form of a program is refused only for running past the top (log 16). -/
theorem source_refuse_of_formIs {i : Instr} {s : State} {r : Refusal} (hform : formIs s i)
    (h : source i s = .error (.refuse r)) : r = .operandPastTop := by
  obtain ⟨-, -, -, hoperand⟩ := hform
  cases hrm : i.src2 with
  | reg x =>
    rw [source_of_reg hrm] at h
    cases h
  | mem m =>
    obtain ⟨ea, haddr, hside⟩ := hoperand m hrm
    rw [source_of_mem hrm] at h
    cases hcheck : checkedAddress (i.family == .legacy) s i.pfx i.len (dispScale i) (operandBytes i) m with
    | ok a =>
      rw [hcheck] at h
      cases h
    | error e =>
      rw [hcheck] at h
      cases h
      exact checkedAddress_refuse haddr (touchesSideEffect_false.2 hside) hcheck

/-- Gate and completion refuse no form of an admitted program: its operand is all that is left. -/
theorem exec_refused_of_formIs {i : Instr} {s : State} {r : Refusal} (hcons : launchConsistent s.launch = true)
    (hform : formIs s i) (h : exec i s = .refused r) : r = .operandPastTop := by
  cases hgate : formGate i s with
  | some e =>
    rw [exec_of_gate hgate, take_refused] at h
    exact absurd (h ▸ hgate) (formGate_ne_refuse hcons r)
  | none =>
    cases hsource : source i s with
    | error e =>
      rw [exec_of_source_error hgate hsource, take_refused] at h
      exact source_refuse_of_formIs hform (h ▸ hsource)
    | ok b =>
      obtain ⟨-, -, hfits, -⟩ := hform
      rw [exec_of_source_ok hgate hsource, complete_of_fits hfits] at h
      cases h

/-! ### Admission (R162) -/

theorem formIs_unique {s : State} {i j : Instr} (hi : formIs s i) (hj : formIs s j) : i = j :=
  Except.ok.inj ((formIs_iff.1 hi).symm.trans (formIs_iff.1 hj))

/-- Admission does not depend on the vector registers, the opmask registers or the flags. -/
theorem admits_congr {n : Nat} {s t : State} (h : admits n s) (hx : t.x = s.x) (hm : t.mem = s.mem)
    (hp : t.pc = s.pc) (he : t.progEnd = s.progEnd) (hl : t.launch = s.launch) : admits n t := by
  induction n generalizing s t with
  | zero =>
    obtain ⟨hend, hlaunch⟩ := h
    exact ⟨by rw [hp, he, hend], hl ▸ hlaunch⟩
  | succ n ih =>
    obtain ⟨i, hform, hrest⟩ := h
    refine ⟨i, ?_, ih (t := t.advance i.len) hrest hx hm ?_ he hl⟩
    · rw [formIs_iff, formAt_congr hx hm hp he hl, ← formIs_iff]
      exact hform
    · rw [advance_pc, advance_pc, hp]

/-- A program in which the machine's check finds no problem is a sequence of admitted forms. -/
theorem admits_of_programProblem {fuel : Nat} {s : State} (hcons : launchConsistent s.launch = true)
    (hfac : s.launch.facilities = false) (h : programProblem fuel s = none) : ∃ n, admits n s := by
  induction fuel generalizing s with
  | zero =>
    rw [programProblem, ite_eq_left_iff] at h
    exact ⟨0, by simpa using h, hcons, hfac⟩
  | succ fuel ih =>
    obtain hend | ⟨i, hform, hrest⟩ := programProblem_succ_none.1 h
    · exact ⟨0, hend, hcons, hfac⟩
    · obtain ⟨n, hn⟩ := ih (s := s.advance i.len) hcons hfac hrest
      exact ⟨n + 1, i, formIs_iff.2 hform, hn⟩

/-- A fetch answers an instruction only where the whole rest of the program is admitted. -/
theorem admits_of_fetch {s : State} {i : Instr} (h : fetch s = .ok i) : ∃ n, admits n s := by
  obtain ⟨hfac, hcons, -, hrest, -⟩ := fetch_ok.1 h
  exact admits_of_programProblem hcons hfac hrest

/-! ### One step and a run of an admitted program -/

/-- A step that hands on a state takes one form off the program. -/
theorem admits_of_step_next {n : Nat} {s t : State} (h : admits n s) (hstep : step s = .next t) :
    ∃ m, n = m + 1 ∧ admits m t := by
  cases n with
  | zero =>
    obtain ⟨hend, hcons, hfac⟩ := h
    rw [step_of_fetch_error (fetch_of_end hfac hcons hend)] at hstep
    cases hstep
  | succ m =>
    obtain ⟨i, hform, hrest⟩ := h
    obtain ⟨j, b, hform', -, rfl⟩ := step_next_cases hstep
    obtain rfl := formIs_unique hform hform'
    exact ⟨m, rfl, admits_congr hrest rfl rfl rfl rfl rfl⟩

/-- A step of an admitted program is refused only at the end, or for the operand of the form it runs. -/
theorem step_refused_of_admits {n : Nat} {s : State} {r : Refusal} (h : admits n s) (hstep : step s = .refused r) :
    r = .programEnded ∨ r = .operandPastTop := by
  obtain ⟨hcons, hfac⟩ := admits_launch h
  by_cases hpc : s.pc = s.progEnd
  · rw [step_of_fetch_error (fetch_of_end hfac hcons hpc)] at hstep
    cases hstep
    exact .inl rfl
  · obtain ⟨i, hform, hfetch⟩ := fetch_of_admits h hpc
    rw [step_of_fetch_ok hfetch] at hstep
    exact .inr (exec_refused_of_formIs hcons hform hstep)

/-- The number of forms left is a measure: each step of a run takes one. -/
theorem run_next_of_admits {n k : Nat} {s t : State} (h : admits n s)
    (hrun : Host.Core.run Sys2Proof.core k s = .next t) : k ≤ n ∧ admits (n - k) t := by
  induction k generalizing n s with
  | zero =>
    cases hrun
    exact ⟨Nat.zero_le n, h⟩
  | succ k ih =>
    cases hstep : step s with
    | next u =>
      obtain ⟨m, rfl, hm⟩ := admits_of_step_next h hstep
      obtain ⟨hle, hleft⟩ := ih hm (run_of_next hstep k ▸ hrun)
      exact ⟨Nat.succ_le_succ hle, by rwa [Nat.add_sub_add_right]⟩
    | fault f => cases (run_of_fault hstep k).symm.trans hrun
    | refused r => cases (run_of_refused hstep k).symm.trans hrun

/-- A run is refused by one of its steps, each of which starts from an admitted rest of the program. -/
theorem run_refused_of_admits {n k : Nat} {s : State} {r : Refusal} (h : admits n s)
    (hrun : Host.Core.run Sys2Proof.core k s = .refused r) : r = .programEnded ∨ r = .operandPastTop := by
  induction k generalizing n s with
  | zero => cases hrun
  | succ k ih =>
    cases hstep : step s with
    | next u =>
      obtain ⟨m, -, hm⟩ := admits_of_step_next h hstep
      exact ih hm (run_of_next hstep k ▸ hrun)
    | fault f => cases (run_of_fault hstep k).symm.trans hrun
    | refused r' =>
      cases (run_of_refused hstep k).symm.trans hrun
      exact step_refused_of_admits h hstep

end Sys2Proof.Safety

namespace Sys2Proof.Proofs

open Sys2Proof.Machine Sys2Proof.Safety

/-- Settles O55, by induction on the steps of the run: the forms left are the measure. -/
theorem admittedProgramsTerminate : Obligations.AdmittedProgramsTerminate := fun _ _ hadm _ =>
  ⟨fun _ => run_next_of_admits hadm, fun _ => run_refused_of_admits hadm⟩

/-- Settles O47: a fetch that answers an instruction has found the program admitted. -/
theorem programThatIsNotAdmittedIsRefused : Obligations.ProgramThatIsNotAdmittedIsRefused := by
  intro s hbad
  cases hfetch : fetch s with
  | error r => exact ⟨r, step_of_fetch_error hfetch⟩
  | ok i =>
    obtain ⟨n, hadm⟩ := admits_of_fetch hfetch
    exact absurd hadm (hbad n)

/-- Settles O51. -/
theorem runEndsAtTheEndAddress : Obligations.RunEndsAtTheEndAddress := fun _ hfac hcons hpc =>
  step_of_fetch_error (fetch_of_end hfac hcons hpc)

end Sys2Proof.Proofs

/-! # Proofs: the words of the spec -/

namespace Sys2Proof

/-- A word that the encoder writes decodes to its instruction and leaves no byte over. -/
theorem decode_of_encode_eq {mode64 : Bool} {i : Instr} {bs : List Byte} (hwf : i.wf mode64 = true)
    (hbs : encode i = bs) : decode mode64 bs = .ok (i, []) := by
  rw [← hbs, ← List.append_nil (encode i)]
  exact decode_encode hwf []

end Sys2Proof

namespace Sys2Proof.Proofs

/-- Settles O4: each word is what the encoder writes for the instruction the spec names (section 8, DEC-3, DEC-11
and DEC-22), so the round trip gives the instruction back. -/
theorem specWordsDecode : Obligations.SpecWordsDecode := by
  have hlegacy : encode (.shufpdRex [.opSize] 8 (.reg 9) 3) = [0x66, 0x45, 0x0F, 0xC6, 0xC1, 0x03] := by decide
  have hvex : encode (.vshufpdVex3L256 [] 0 1 (.reg 10) 5) = [0xC4, 0xC1, 0x75, 0xC6, 0xC2, 0x05] := by decide
  have hevex : encode (.vshufpdEvex512 [] 17 0 false 18 (.reg 19) false 0) =
      [0x62, 0xA1, 0xED, 0x40, 0xC6, 0xCB, 0x00] := by decide
  exact ⟨decode_of_encode_eq (by decide) hlegacy, decode_of_encode_eq (by decide) hvex,
    decode_of_encode_eq (by decide) hevex⟩

end Sys2Proof.Proofs
